-- ==== Sys2Proof/Word.lean ====
section
/-! DEFINITION. The word types of the PCG engine (spec/00_scope.md R6, R9): unsigned values of 64, 32 and 8 bits, whose
arithmetic is BitVec's own, modulo 2^w. -/

namespace Sys2Proof

/-- `u64` of R9: registers, lane fields, command words, operands. -/
abbrev Word := BitVec 64

/-- `u32` of R9: the 32-bit generator's draws, bound and threshold. -/
abbrev Word32 := BitVec 32

/-- One byte of a register, as the platform numbers them (20_memory.md R65). -/
abbrev Byte := BitVec 8

end Sys2Proof
end

