-- ==== Sys2Proof/Syntax.lean ====
section
/-! DEFINITION. The syntax of the PCG engine: the twelve commands (one constructor per row of spec/opcode_table.json), the
fields of a command word, the registers of the window, the host's accesses and statements, and the turns that order host,
engine and reset. -/

namespace Sys2Proof

/-- The commands (30_encoding.md R84). A command word has no operand fields (R87), so no constructor has arguments. -/
inductive Instr where
  | clear32
  | seed32
  | random32
  | bounded32
  | advance32
  | retreat32
  | clear64
  | seed64
  | random64
  | bounded64
  | advance64
  | retreat64
  deriving DecidableEq, Repr

/-- The fields of a command word (30_encoding.md R81): FUNC = bits 3:0, W = bit 4, RSV = bits 63:5. -/
@[ext]
structure CmdFields where
  func : BitVec 4
  w : BitVec 1
  rsv : BitVec 59
  deriving DecidableEq, Repr

/-- Why a command word is illegal, one name for each condition of 30_encoding.md R85, and one for a byte string that is
not one command word (R80). -/
inductive IllegalWord where
  /-- `w[63:5] != 0` -/
  | reservedBits
  /-- `w[3:0] == 0` -/
  | funcZero
  /-- `w[3:0] >= 7` -/
  | funcReserved
  /-- not exactly eight bytes -/
  | notEightBytes
  deriving DecidableEq, Repr

/-- The sixteen registers of the window (10_state.md R30). -/
inductive Reg where
  | id
  | mult
  | status
  | cmd
  | op0
  | op1
  | op2
  | op3
  | res
  | errinfo
  | g32State
  | g32Inc
  | loState
  | loInc
  | hiState
  | hiInc
  deriving DecidableEq, Repr

/-- The direction of a host access, a write with the value it carries (20_memory.md R62). The value of a write that is not
8 bytes long is never used (R64), so 64 bits hold every value that matters. -/
inductive Dir where
  | read
  | write (v : Word)
  deriving DecidableEq, Repr

/-- A host access of `size` bytes at byte offset `off` of the window (20_memory.md R60, R62). -/
structure Access where
  off : Fin 256
  size : Nat
  dir : Dir
  deriving DecidableEq, Repr

/-- One turn of the schedule: who acts next (10_state.md R20, 20_memory.md R73; log 1). -/
inductive Turn where
  /-- one engine step, taken only while a command is in flight (R20) -/
  | engine
  /-- one host access, by window offset (20_memory.md R62) -/
  | access (a : Access)
  /-- one host access, by byte address; the window decodes it (20_memory.md R60) -/
  | bus (addr : Nat) (size : Nat) (dir : Dir)
  /-- the host's POLL loop (30_encoding.md R93; log 9) -/
  | poll
  /-- the platform's reset input (70_reset_and_hazards.md R180) -/
  | reset
  deriving DecidableEq, Repr

/-- The host statements (30_encoding.md R93). -/
inductive Stmt where
  | wr (r : Reg) (v : Word)
  | rd (r : Reg)
  | cmd (i : Instr)
  | poll
  deriving DecidableEq, Repr

/-- The pseudo-instructions (30_encoding.md R95). -/
inductive Pseudo where
  | clear32
  | seed32 (s q : Word)
  | random32
  | bounded32 (b : Word)
  | advance32 (d : Word)
  | retreat32 (d : Word)
  | clear64
  | seed64 (s1 s2 q1 q2 : Word)
  | random64
  | bounded64 (b : Word)
  | advance64 (d : Word)
  | retreat64 (d : Word)
  | clrerr
  deriving DecidableEq, Repr

end Sys2Proof
end

