-- ==== Sys2Proof/WellFormed.lean ====
section
/-! DEFINITION. Well-formed command words and commands (spec/30_encoding.md R81 to R87). -/

namespace Sys2Proof

/-- The fields of a legal command word: RSV is 0, FUNC is 1 to 6, and either value of W is legal (R81, R82, R83). -/
def CmdFields.wellFormed (f : CmdFields) : Bool :=
  f.rsv == 0#59 && f.func != 0#4 && decide (f.func.toNat < 7)

/-- Every command is well formed: a command has no operand fields and no immediates to check (R87). -/
def Instr.wellFormed : Instr → Bool
  | .clear32 | .seed32 | .random32 | .bounded32 | .advance32 | .retreat32 => true
  | .clear64 | .seed64 | .random64 | .bounded64 | .advance64 | .retreat64 => true

end Sys2Proof
end

