-- ==== Sys2Proof/Decode.lean ====
section
/-! DEFINITION. Decoding and encoding of command words (spec/30_encoding.md R80 to R91), over words, over bytes in the
order of 20_memory.md R65, and in the numbering of spec/opcode_table.json. -/

namespace Sys2Proof

/-- The fields of a word (R81). -/
def fieldsOfWord (w : Word) : CmdFields :=
  { func := w.extractLsb' 0 4, w := w.extractLsb' 4 1, rsv := w.extractLsb' 5 59 }

/-- The word with the given fields (R81). -/
def wordOfFields (f : CmdFields) : Word := f.rsv ++ f.w ++ f.func

/-- The command that W and FUNC select (R82, R83), or the reason there is none. -/
def decodeFields (w : BitVec 1) (func : BitVec 4) : Except IllegalWord Instr :=
  match w, func with
  | 0#1, 1#4 => .ok .clear32
  | 0#1, 2#4 => .ok .seed32
  | 0#1, 3#4 => .ok .random32
  | 0#1, 4#4 => .ok .bounded32
  | 0#1, 5#4 => .ok .advance32
  | 0#1, 6#4 => .ok .retreat32
  | 1#1, 1#4 => .ok .clear64
  | 1#1, 2#4 => .ok .seed64
  | 1#1, 3#4 => .ok .random64
  | 1#1, 4#4 => .ok .bounded64
  | 1#1, 5#4 => .ok .advance64
  | 1#1, 6#4 => .ok .retreat64
  | _, 0#4 => .error .funcZero
  | _, _ => .error .funcReserved

/-- `decode(w)` (R91): a total function of the word alone; the words R85 calls illegal are rejected by name. -/
def decode (w : Word) : Except IllegalWord Instr :=
  let f := fieldsOfWord w
  if f.rsv = 0#59 then decodeFields f.w f.func else .error .reservedBits

/-- The fields of each command's word (R82, R83, R84). -/
def Instr.fields : Instr → CmdFields
  | .clear32 => { func := 1#4, w := 0#1, rsv := 0#59 }
  | .seed32 => { func := 2#4, w := 0#1, rsv := 0#59 }
  | .random32 => { func := 3#4, w := 0#1, rsv := 0#59 }
  | .bounded32 => { func := 4#4, w := 0#1, rsv := 0#59 }
  | .advance32 => { func := 5#4, w := 0#1, rsv := 0#59 }
  | .retreat32 => { func := 6#4, w := 0#1, rsv := 0#59 }
  | .clear64 => { func := 1#4, w := 1#1, rsv := 0#59 }
  | .seed64 => { func := 2#4, w := 1#1, rsv := 0#59 }
  | .random64 => { func := 3#4, w := 1#1, rsv := 0#59 }
  | .bounded64 => { func := 4#4, w := 1#1, rsv := 0#59 }
  | .advance64 => { func := 5#4, w := 1#1, rsv := 0#59 }
  | .retreat64 => { func := 6#4, w := 1#1, rsv := 0#59 }

/-- The command word of a command (R84). -/
def encode (i : Instr) : Word := wordOfFields i.fields

/-- Byte `k` of a 64-bit value: bits 8k+7:8k (20_memory.md R65). -/
def byteOfWord (v : Word) (k : Nat) : Byte := v.extractLsb' (8 * k) 8

/-- The eight bytes of a value, lowest address first (20_memory.md R65). -/
def bytesOfWord (v : Word) : List Byte :=
  [byteOfWord v 0, byteOfWord v 1, byteOfWord v 2, byteOfWord v 3,
    byteOfWord v 4, byteOfWord v 5, byteOfWord v 6, byteOfWord v 7]

/-- The value whose eight bytes are given, lowest address first. -/
def wordOfBytes (b0 b1 b2 b3 b4 b5 b6 b7 : Byte) : Word :=
  b7 ++ b6 ++ b5 ++ b4 ++ b3 ++ b2 ++ b1 ++ b0

/-- Decoding on bytes: a command word is exactly eight bytes (R80), in the order of 20_memory.md R65 (log 13). -/
def decodeBytes : List Byte → Except IllegalWord Instr
  | [b0, b1, b2, b3, b4, b5, b6, b7] => decode (wordOfBytes b0 b1 b2 b3 b4 b5 b6 b7)
  | _ => .error .notEightBytes

/-- The bytes of a command's word. -/
def encodeBytes (i : Instr) : List Byte := bytesOfWord (encode i)

/-- The command word that `w` stands for in spec/opcode_table.json's numbering: bit 0 least significant, every bit above
`nbits` zero. -/
def tableWord (nbits w : Nat) : Word := BitVec.ofNat 64 (w % 2 ^ nbits)

/-- What the decoder reads from the instruction whose bits are `w` in spec/opcode_table.json's numbering. -/
def decodeTableWord (nbits w : Nat) : Option Instr :=
  match decodeBytes (bytesOfWord (tableWord nbits w)) with
  | .ok i => some i
  | .error _ => none

end Sys2Proof
end

