-- ==== Sys2Proof/Config.lean ====
section
/-! DEFINITION. What an implementation fixes (the open parameters of spec/00_scope.md R7 and the constant of R6) and the
free values (spec/93_implementation_defined.md). -/

namespace Sys2Proof.Config

/-- `MULTIPLIER` (10_state.md R23), the constant of the LCG step and the value of the MULT register (R32). -/
def multiplier : Word := 0x5851F42D4C957F2D#64

/-- `PCG_ID` (00_scope.md R7, 10_state.md R31; U3): the constant the ID register reads. OPEN in the spec, so it has no
body here (log 4). -/
opaque pcgId : Word

/-- The number of 256-byte pages below the window; OPEN in the spec (log 4). -/
opaque pcgPage : Nat

/-- `PCG_BASE` (00_scope.md R7, 20_memory.md R60; U2): "the window's base address, a multiple of 256". -/
def pcgBase : Nat := pcgPage * 256

/-- The unspecified values of U1 (93_implementation_defined.md): "a fresh unconstrained u64 per read". The k-th such read
of a run returns `freeWord k`; it has no body, so nothing can be proved of its values (log 3). -/
opaque freeWord : Nat → Word

end Sys2Proof.Config
end

