-- ==== Sys2Proof/Machine/State.lean ====
section
/-! DEFINITION. The state of the PCG engine (spec/10_state.md), its value after reset (R54), and the reasons a step can
stop. -/

namespace Sys2Proof.Machine

/-- A lane (10_state.md R21): the raw LCG state and the additive constant of the stream. -/
@[ext]
structure Lane where
  state : Word
  inc : Word
  deriving DecidableEq, Repr

/-- The jump-ahead registers of a lane (10_state.md R52, 40_datapath.md R110): the map accumulated so far, the map of the
current power of two, and the remaining delta. -/
@[ext]
structure JumpRegs where
  accMult : Word
  accPlus : Word
  curMult : Word
  curPlus : Word
  delta : Word
  deriving DecidableEq, Repr

/-- The working values of the command in flight (10_state.md R52; log 6). -/
inductive InFlight where
  /-- no working values: the engine is idle (R54), or the command in flight keeps none -/
  | none
  /-- ADVANCE32, RETREAT32 -/
  | jump32 (r : JumpRegs)
  /-- ADVANCE64, RETREAT64: one set per lane -/
  | jump64 (lo hi : JumpRegs)
  /-- BOUNDED32: the threshold, the number of draws so far, the working copy of G32 (41_pcg32.md R120) -/
  | bounded32 (threshold : Word32) (draws : Nat) (lane : Lane)
  /-- BOUNDED64: the threshold, the number of draws so far, the working copies of LO and HI -/
  | bounded64 (threshold : Word) (draws : Nat) (lo hi : Lane)
  deriving DecidableEq, Repr

/-- What one read of the window returned to the host: host storage, not block state (30_encoding.md R93; log 11). A read
that is not legal returns 0 in every one of its `size` bytes (20_memory.md R64), and a legal one 8 bytes, so `value` holds
every value a read can return. -/
structure HostRead where
  off : Fin 256
  size : Nat
  value : Word
  deriving DecidableEq, Repr

/-- The error events (60_exceptions.md R161). -/
inductive Event where
  | errIllegal
  | errOverrun
  | errOperand
  | errAccess
  | warnUnseeded
  deriving DecidableEq, Repr

/-- The whole state: the block's (10_state.md R53: "The only state is that of rules R21 to R26, the registers of rule R30
and the hidden values of rules R51 and R52"), then the model's own three fields. -/
@[ext]
structure State where
  /-- context G32 (R22) -/
  g32 : Lane
  /-- lane LO of context G64 (R22) -/
  lo : Lane
  /-- lane HI of context G64 (R22) -/
  hi : Lane
  /-- STATUS (R33); the SEEDED flags of R26 are its bits 2 and 3 -/
  status : Word
  /-- OP0 (R45) -/
  op0 : Word
  /-- OP1 (R45) -/
  op1 : Word
  /-- OP2 (R45) -/
  op2 : Word
  /-- OP3 (R45) -/
  op3 : Word
  /-- RES (R46) -/
  res : Word
  /-- ERRINFO (R47) -/
  errinfo : Word
  /-- LCMD, the accepted command word (R51) -/
  lcmd : Word
  /-- L0 (R51) -/
  l0 : Word
  /-- L1 (R51) -/
  l1 : Word
  /-- L2 (R51) -/
  l2 : Word
  /-- L3 (R51) -/
  l3 : Word
  /-- working values of the command in flight (R52) -/
  inFlight : InFlight
  /-- MODEL's own: the turns still to come, next first (log 1) -/
  schedule : List Turn
  /-- MODEL's own: what the host's reads returned, newest first (log 11) -/
  reads : List HostRead
  /-- MODEL's own: how many free values have been drawn (log 3) -/
  freeCount : Nat
  deriving DecidableEq, Repr

/-- Reset (10_state.md R54): "Reset sets every piece of state to the value in the table". The model's own fields are empty
(log 1, log 3, log 11). -/
def State.reset : State where
  g32 := { state := 0#64, inc := 0#64 }
  lo := { state := 0#64, inc := 0#64 }
  hi := { state := 0#64, inc := 0#64 }
  status := 0#64
  op0 := 0#64
  op1 := 0#64
  op2 := 0#64
  op3 := 0#64
  res := 0#64
  errinfo := 0#64
  lcmd := 0#64
  l0 := 0#64
  l1 := 0#64
  l2 := 0#64
  l3 := 0#64
  inFlight := .none
  schedule := []
  reads := []
  freeCount := 0

/-- The faults. The block itself never faults (60_exceptions.md R160). -/
inductive Fault where
  /-- Raised by `step` alone, on an engine turn with BUSY = 1 and an LCMD that is no command word. A CMD write never accepts
  such a word (30_encoding.md R92), so no run from reset meets it: SAFE (log 7). -/
  | illegalWordInFlight
  deriving DecidableEq, Repr

/-- The refusals. Every command has a meaning, so no arm of `exec` refuses. -/
inductive Refusal where
  /-- Raised by `exec`'s arm of an instruction that has no meaning yet: SAFE. No arm raises it now. -/
  | notModelled (mnemonic : String)
  deriving DecidableEq, Repr

end Sys2Proof.Machine
end

