-- ==== Sys2Proof/Machine/Flags.lean ====
section
/-! DEFINITION. STATUS: the places of its fields (spec/10_state.md R33 to R43), setting a field, and the W1C write (R68). -/

namespace Sys2Proof.Machine

/-- BUSY (R34). -/
abbrev busyBit : Nat := 0
/-- RV (R35). -/
abbrev rvBit : Nat := 1
/-- SEEDED32 (R36). -/
abbrev seeded32Bit : Nat := 2
/-- SEEDED64 (R37). -/
abbrev seeded64Bit : Nat := 3

/-- An event's code, which is its STATUS bit number (60_exceptions.md R161; 10_state.md R38 to R42). -/
def Event.code : Event → Nat
  | .errIllegal => 8
  | .errOverrun => 9
  | .errOperand => 10
  | .errAccess => 11
  | .warnUnseeded => 12

/-- Bit `k` of `w` set to `b`, every other bit kept. -/
def setBit (w : Word) (k : Nat) (b : Bool) : Word :=
  if b then w ||| (1#64 <<< k) else w &&& ~~~(1#64 <<< k)

/-- The W1C bits of STATUS, 8 to 12 (R38 to R42). -/
def w1cMask : Word := 0x1F00#64

/-- The bits of STATUS that are fields; the others are reserved and read 0 (R43). -/
def statusMask : Word := 0x1F0F#64

/-- STATUS after a legal write of `v` (20_memory.md R68): each of bits 8 to 12 is cleared where `v` has a 1, every other
bit of `v` is ignored. -/
def w1cWrite (status v : Word) : Word := status &&& ~~~(v &&& w1cMask)

/-- STATUS.BUSY (R34). -/
def State.busy (s : State) : Bool := s.status.getLsbD busyBit
/-- STATUS.RV (R35). -/
def State.rv (s : State) : Bool := s.status.getLsbD rvBit
/-- STATUS.SEEDED32 (R26, R36). -/
def State.seeded32 (s : State) : Bool := s.status.getLsbD seeded32Bit
/-- STATUS.SEEDED64 (R26, R37). -/
def State.seeded64 (s : State) : Bool := s.status.getLsbD seeded64Bit
/-- The sticky bit of an event (R38 to R42). -/
def State.eventBit (s : State) (e : Event) : Bool := s.status.getLsbD e.code

end Sys2Proof.Machine
end

