-- ==== Sys2Proof/Machine/Datapath.lean ====
section
/-! DEFINITION. The datapath functions (spec/40_datapath.md): the LCG step, XSH-RR, draws, seeding, thresholds, jump-ahead
and stream distinctness, as functions of lanes and values. -/

namespace Sys2Proof.Machine

/-- `trunc32(v)` (00_scope.md R10): `v[31:0]`. -/
def trunc32 (v : Word) : Word32 := v.truncate 32

/-- `zext64(v)` (00_scope.md R10). -/
def zext64 (v : Word32) : Word := v.zeroExtend 64

/-- `hi32 :: lo32` (00_scope.md R10). -/
def concat32 (h l : Word32) : Word := (zext64 h <<< 32) ||| zext64 l

/-- `MASK63` (00_scope.md R10). -/
def mask63 : Word := 0x7FFFFFFFFFFFFFFF#64

/-- `lcg_step(s, c)` (R100). The constant stands on the left of the product: the kernel cannot reduce a product whose right
factor is a large literal, and meets one whenever it compares states. -/
def lcgStep (s c : Word) : Word := Config.multiplier * s + c

/-- `rotr32(x, r)`, for r at most 31 (R102). -/
def rotr32 (x : Word32) (r : Nat) : Word32 :=
  if r = 0 then x else (x >>> r) ||| (x <<< (32 - r))

/-- `xsh_rr32(old)` (R101): bits 58:27 of `old ^ (old >> 18)`, rotated right by bits 63:59 (90_conflicts.md C1). -/
def xshRr32 (old : Word) : Word32 :=
  rotr32 (trunc32 ((old ^^^ (old >>> 18)) >>> 27)) (old >>> 59).toNat

/-- The lane after one LCG step. -/
def Lane.next (l : Lane) : Lane := { l with state := lcgStep l.state l.inc }

/-- `draw32(L)` (R103): the output of the old state, and the lane one step on. -/
def draw32 (l : Lane) : Word32 × Lane := (xshRr32 l.state, l.next)

/-- `draw64(LO, HI)` (R104): one draw of each lane, HI's in the upper half. -/
def draw64 (lo hi : Lane) : Word × Lane × Lane :=
  let h := draw32 hi
  let l := draw32 lo
  (concat32 h.1 l.1, l.2, h.2)

/-- `seed_lane(L, s, q)` (R105), its five steps in order. -/
def seedLane (l : Lane) (s q : Word) : Lane :=
  let l := { l with inc := (q <<< 1) ||| 1#64 }
  let l := { l with state := 0#64 }
  let l := { l with state := lcgStep l.state l.inc }
  let l := { l with state := l.state + s }
  { l with state := lcgStep l.state l.inc }

/-- `distinct_seq2(q1, q2)` (R114). -/
def distinctSeq2 (q1 q2 : Word) : Word :=
  if q1 &&& mask63 = q2 &&& mask63 then ~~~q2 else q2

/-- `threshold32(b)` (R107): `neg32(b) % b`. The command rules never pass 0 (R109). -/
def threshold32 (b : Word32) : Word32 := (-b) % b

/-- `threshold64(b)` (R108): `neg64(b) % b`. The command rules never pass 0 (R109). -/
def threshold64 (b : Word) : Word := (-b) % b

/-- The jump-ahead registers before the first iteration (R110), with the whole delta remaining. -/
def JumpRegs.load (delta c : Word) : JumpRegs :=
  { accMult := 1#64, accPlus := 0#64, curMult := Config.multiplier, curPlus := c, delta := delta }

/-- One iteration of the jump-ahead loop (R110): the accumulate step if the lowest remaining bit of delta is 1, then the
doubling step, each reading the values from before it. -/
def JumpRegs.iterate (r : JumpRegs) : JumpRegs :=
  let acc := r.delta.getLsbD 0
  { accMult := if acc then r.accMult * r.curMult else r.accMult
    accPlus := if acc then r.accPlus * r.curMult + r.curPlus else r.accPlus
    curMult := r.curMult * r.curMult
    curPlus := r.curPlus * (r.curMult + 1#64)
    delta := r.delta >>> 1 }

/-- `n` iterations, least significant bit of delta first. -/
def JumpRegs.run : Nat → JumpRegs → JumpRegs
  | 0, r => r
  | n + 1, r => JumpRegs.run n r.iterate

/-- The state that the accumulated map gives from `s`: `s * acc_mult + acc_plus`. -/
def JumpRegs.apply (r : JumpRegs) (s : Word) : Word := s * r.accMult + r.accPlus

/-- `jump(s, delta, c)` (R110): exactly 64 iterations. -/
def jump (s delta c : Word) : Word := ((JumpRegs.load delta c).run 64).apply s

/-- `retreat(s, delta, c)` (R113): the jump by the negated delta. -/
def retreat (s delta c : Word) : Word := jump s (-delta) c

end Sys2Proof.Machine
end

