-- ==== Sys2Proof/Machine/Operands.lean ====
section
/-! DEFINITION. Operands: which latch each command reads (spec/30_encoding.md R88, R90), and the working values of the
command in flight (spec/10_state.md R52; log 6). -/

namespace Sys2Proof.Machine

/-- BOUNDED32's bound, `L0[31:0]` (R90). -/
def State.bound32 (s : State) : Word32 := trunc32 s.l0

/-- BOUNDED64's bound, L0 (R88). -/
def State.bound64 (s : State) : Word := s.l0

/-- The working values a command starts with, from the latches and the lanes: R110's initial registers for ADVANCE and
RETREAT, R109's threshold with no draw taken for BOUNDED (a bound of 0 has no threshold and takes no draw). -/
def startFlight (i : Instr) (s : State) : InFlight :=
  match i with
  | .clear32 | .seed32 | .random32 | .clear64 | .seed64 | .random64 => .none
  | .advance32 => .jump32 (.load s.l0 s.g32.inc)
  | .retreat32 => .jump32 (.load (-s.l0) s.g32.inc)
  | .advance64 => .jump64 (.load s.l0 s.lo.inc) (.load s.l0 s.hi.inc)
  | .retreat64 => .jump64 (.load (-s.l0) s.lo.inc) (.load (-s.l0) s.hi.inc)
  | .bounded32 => if s.bound32 = 0#32 then .none else .bounded32 (threshold32 s.bound32) 0 s.g32
  | .bounded64 => if s.bound64 = 0#64 then .none else .bounded64 (threshold64 s.bound64) 0 s.lo s.hi

/-- The jump-ahead registers ADVANCE32 or RETREAT32 runs: the ones held, or, where none are held, loaded from the lane
and the given delta (log 6). -/
def State.jump32Regs (s : State) (delta : Word) : JumpRegs :=
  match s.inFlight with
  | .jump32 r => r
  | _ => .load delta s.g32.inc

/-- The jump-ahead registers of LO and HI that ADVANCE64 or RETREAT64 runs, as `jump32Regs`. -/
def State.jump64Regs (s : State) (delta : Word) : JumpRegs × JumpRegs :=
  match s.inFlight with
  | .jump64 lo hi => (lo, hi)
  | _ => (.load delta s.lo.inc, .load delta s.hi.inc)

/-- The threshold, the number of draws so far and the working lane that BOUNDED32 draws from: the ones held, or, where
none are held, the ones it starts with (log 6). -/
def State.bounded32Work (s : State) : Word32 × Nat × Lane :=
  match s.inFlight with
  | .bounded32 t n l => (t, n, l)
  | _ => (threshold32 s.bound32, 0, s.g32)

/-- The threshold, the number of draws so far and the working lanes LO and HI that BOUNDED64 draws from, as
`bounded32Work`. -/
def State.bounded64Work (s : State) : Word × Nat × Lane × Lane :=
  match s.inFlight with
  | .bounded64 t n lo hi => (t, n, lo, hi)
  | _ => (threshold64 s.bound64, 0, s.lo, s.hi)

end Sys2Proof.Machine
end

