-- ==== Sys2Proof/Machine/Ops.lean ====
section
/-! DEFINITION. The shared operations: events and their clearing (spec/60_exceptions.md R167, R170), acceptance and
rejection of a command word (spec/30_encoding.md R92), reads and writes of the register window (spec/20_memory.md),
completion of a command (spec/41_pcg32.md R120), and reset (spec/70_reset_and_hazards.md R180). -/

namespace Sys2Proof.Machine

/-! ### Events -/

/-- `raise E(w)` (R167): the event's STATUS bit, and for all but ErrAccess the command word in ERRINFO. -/
def raiseEvent (e : Event) (w : Word) (s : State) : State :=
  { s with
    status := setBit s.status e.code true
    errinfo := if e = .errAccess then s.errinfo else w }

/-- The host's W1C write of STATUS (20_memory.md R68), the only thing beside reset that clears event bits (R170). -/
def clearEvents (v : Word) (s : State) : State := { s with status := w1cWrite s.status v }

/-! ### Commands -/

/-- The in-flight period begins (30_encoding.md R92): the word and the operands are latched (R89), RV is cleared, BUSY is
set, and the engine holds the command's first working values (10_state.md R52). -/
def latchCommand (w : Word) (s : State) : State :=
  let t := { s with
    lcmd := w
    l0 := s.op0
    l1 := s.op1
    l2 := s.op2
    l3 := s.op3
    status := setBit (setBit s.status rvBit false) busyBit true }
  { t with inFlight := match decode w with
      | .ok i => startFlight i t
      | .error _ => .none }

/-- Whether a command needs its context seeded (FUNC 3 to 6: RANDOM, BOUNDED, ADVANCE, RETREAT) and it is not
(60_exceptions.md R166). -/
def usesUnseeded (i : Instr) (s : State) : Bool :=
  match i with
  | .clear32 | .seed32 | .clear64 | .seed64 => false
  | .random32 | .bounded32 | .advance32 | .retreat32 => !s.seeded32
  | .random64 | .bounded64 | .advance64 | .retreat64 => !s.seeded64

/-- Whether a command's operand registers are out of range: BOUNDED32 with `OP0[63:32] != 0` (30_encoding.md R90). -/
def operandTooWide (i : Instr) (s : State) : Bool :=
  match i with
  | .bounded32 => s.op0.extractLsb' 32 32 != 0#32
  | .clear32 | .seed32 | .random32 | .advance32 | .retreat32 => false
  | .clear64 | .seed64 | .random64 | .bounded64 | .advance64 | .retreat64 => false

/-- Acceptance of command `i` with word `w`: it is in flight, and WarnUnseeded is raised if its condition holds
(30_encoding.md R92). -/
def acceptCommand (i : Instr) (w : Word) (s : State) : State :=
  if usesUnseeded i s then raiseEvent .warnUnseeded w (latchCommand w s) else latchCommand w s

/-- A legal write of `w` to CMD (30_encoding.md R92), the checks in the order of 60_exceptions.md R168. -/
def submitCommand (w : Word) (s : State) : State :=
  if s.busy then raiseEvent .errOverrun w s
  else match decode w with
    | .error _ => raiseEvent .errIllegal w s
    | .ok i => if operandTooWide i s then raiseEvent .errOperand w s else acceptCommand i w s

/-- Completion of a command with no result (41_pcg32.md R120): BUSY is cleared and the working values are gone. -/
def complete (s : State) : State :=
  { s with status := setBit s.status busyBit false, inFlight := .none }

/-- Completion of a command with result `r` (41_pcg32.md R120): RES is written and RV set as well. -/
def completeWith (r : Word) (s : State) : State :=
  complete { s with res := r, status := setBit s.status rvBit true }

/-! ### The register window -/

/-- The register's byte offset (10_state.md R30). -/
def regOffset : Reg → Fin 256
  | .id => 0x00
  | .mult => 0x08
  | .status => 0x10
  | .cmd => 0x18
  | .op0 => 0x20
  | .op1 => 0x28
  | .op2 => 0x30
  | .op3 => 0x38
  | .res => 0x40
  | .errinfo => 0x48
  | .g32State => 0x50
  | .g32Inc => 0x58
  | .loState => 0x60
  | .loInc => 0x68
  | .hiState => 0x70
  | .hiInc => 0x78

/-- The register at an offset that is a multiple of 8, or none in the reserved range (10_state.md R30, R50). -/
def regAt (off : Fin 256) : Option Reg :=
  match off.val / 8 with
  | 0 => some .id
  | 1 => some .mult
  | 2 => some .status
  | 3 => some .cmd
  | 4 => some .op0
  | 5 => some .op1
  | 6 => some .op2
  | 7 => some .op3
  | 8 => some .res
  | 9 => some .errinfo
  | 10 => some .g32State
  | 11 => some .g32Inc
  | 12 => some .loState
  | 13 => some .loInc
  | 14 => some .hiState
  | 15 => some .hiInc
  | _ => none

/-- The architected value of a register (10_state.md R31 to R49). CMD holds no state and reads 0 (R44). -/
def regValue (r : Reg) (s : State) : Word :=
  match r with
  | .id => Config.pcgId
  | .mult => Config.multiplier
  | .status => s.status
  | .cmd => 0#64
  | .op0 => s.op0
  | .op1 => s.op1
  | .op2 => s.op2
  | .op3 => s.op3
  | .res => s.res
  | .errinfo => s.errinfo
  | .g32State => s.g32.state
  | .g32Inc => s.g32.inc
  | .loState => s.lo.state
  | .loInc => s.lo.inc
  | .hiState => s.hi.state
  | .hiInc => s.hi.inc

/-- The registers whose reads return an unspecified value while BUSY = 1 (20_memory.md R67: RES and the six lane
registers). -/
def unspecifiedWhileBusy : Reg → Bool
  | .res | .g32State | .g32Inc | .loState | .loInc | .hiState | .hiInc => true
  | .id | .mult | .status | .cmd | .op0 | .op1 | .op2 | .op3 | .errinfo => false

/-- The architected value at an offset that is a multiple of 8; a reserved offset reads 0 (10_state.md R50). -/
def windowValue (off : Fin 256) (s : State) : Word :=
  match regAt off with
  | some r => regValue r s
  | none => 0#64

/-- The byte of the window at an offset, of the architected values: byte `off % 8` of its register (20_memory.md R65). -/
def windowByte (off : Fin 256) (s : State) : Byte := byteOfWord (windowValue off s) (off.val % 8)

/-- The host stores what its read returned. -/
def logRead (off : Fin 256) (size : Nat) (v : Word) (s : State) : State :=
  { s with reads := { off := off, size := size, value := v } :: s.reads }

/-- Whether a legal read at this offset returns an unspecified value now (20_memory.md R67). -/
def readUnspecified (off : Fin 256) (s : State) : Bool :=
  match regAt off with
  | some r => s.busy && unspecifiedWhileBusy r
  | none => false

/-- A legal read (20_memory.md R67): the value of the register, or, for RES and the lane registers while BUSY = 1, a fresh
free value (U1; log 3). The block's state does not change. -/
def readLegal (off : Fin 256) (s : State) : State :=
  if readUnspecified off s then
    logRead off 8 (Config.freeWord s.freeCount) { s with freeCount := s.freeCount + 1 }
  else logRead off 8 (windowValue off s) s

/-- A legal write (20_memory.md R68): W1C at STATUS, a command word at CMD, a store at OP0 to OP3, ignored elsewhere. -/
def writeLegal (off : Fin 256) (v : Word) (s : State) : State :=
  match regAt off with
  | some .status => clearEvents v s
  | some .cmd => submitCommand v s
  | some .op0 => { s with op0 := v }
  | some .op1 => { s with op1 := v }
  | some .op2 => { s with op2 := v }
  | some .op3 => { s with op3 := v }
  | some .id | some .mult | some .res | some .errinfo => s
  | some .g32State | some .g32Inc | some .loState | some .loInc | some .hiState | some .hiInc => s
  | none => s

/-- A legal access (20_memory.md R63): 8 bytes at an offset that is a multiple of 8. -/
def legalAccess (off : Fin 256) (size : Nat) : Bool := size == 8 && off.val % 8 == 0

/-- A host access (20_memory.md R64): a legal one is performed; any other raises ErrAccess, has no other effect on the
block, and a read returns 0. -/
def hostAccess (off : Fin 256) (size : Nat) (d : Dir) (s : State) : State :=
  if legalAccess off size then
    match d with
    | .read => readLegal off s
    | .write v => writeLegal off v s
  else
    match d with
    | .read => logRead off size 0#64 (raiseEvent .errAccess 0#64 s)
    | .write _ => raiseEvent .errAccess 0#64 s

/-- The window offset of a byte address, where the address lies in the window (20_memory.md R60). -/
def windowOffset (addr : Nat) : Option (Fin 256) :=
  if h : Config.pcgBase ≤ addr ∧ addr < Config.pcgBase + 256 then some ⟨addr - Config.pcgBase, by omega⟩ else none

/-- A host access by byte address (20_memory.md R60); an address outside the window is the platform's, and the block takes
no part (R62; log 8). -/
def busAccess (addr : Nat) (size : Nat) (d : Dir) (s : State) : State :=
  match windowOffset addr with
  | some off => hostAccess off size d s
  | none => s

/-- One round of POLL (30_encoding.md R93): read STATUS, and while BUSY = 1 let the engine take a turn and read again
(log 9). -/
def pollRound (s : State) : State :=
  let t := hostAccess (regOffset .status) 8 .read s
  if s.busy then { t with schedule := .engine :: .poll :: t.schedule } else t

/-! ### Reset -/

/-- The reset input (70_reset_and_hazards.md R180): every piece of the block's state at its value of 10_state.md R54,
whatever the block was doing. The model's own fields stay (log 10). -/
def resetBlock (s : State) : State :=
  { State.reset with schedule := s.schedule, reads := s.reads, freeCount := s.freeCount }

end Sys2Proof.Machine
end

