-- ==== Sys2Proof/Machine/Pcg32.lean ====
section
/-! DEFINITION. The six commands of context G32 (spec/41_pcg32.md R121 to R126): one engine step of each (R120). -/

namespace Sys2Proof.Machine

/-- CLEAR32 (R121). -/
def execClear32 (s : State) : Host.Outcome State Fault Refusal :=
  .next (complete { s with
    g32 := { state := 0#64, inc := 0#64 }
    status := setBit s.status seeded32Bit false })

/-- SEED32 (R122). -/
def execSeed32 (s : State) : Host.Outcome State Fault Refusal :=
  .next (complete { s with
    g32 := seedLane s.g32 s.l0 s.l1
    status := setBit s.status seeded32Bit true })

/-- RANDOM32 (R123). -/
def execRandom32 (s : State) : Host.Outcome State Fault Refusal :=
  let d := draw32 s.g32
  .next (completeWith (zext64 d.1) { s with g32 := d.2 })

/-- BOUNDED32 (R124), one draw of the loop of 40_datapath.md R109 on the working copy of the lane (R120): a bound of 0
completes with no draw; an accepted draw completes; a rejected one leaves the command in flight. -/
def execBounded32 (s : State) : Host.Outcome State Fault Refusal :=
  if s.bound32 = 0#32 then .next (completeWith 0#64 s)
  else
    let (t, n, lane) := s.bounded32Work
    let d := draw32 lane
    if t ≤ d.1 then .next (completeWith (zext64 (d.1 % s.bound32)) { s with g32 := d.2 })
    else .next { s with inFlight := .bounded32 t (n + 1) d.2 }

/-- ADVANCE32 (R125). -/
def execAdvance32 (s : State) : Host.Outcome State Fault Refusal :=
  .next (complete { s with
    g32 := { s.g32 with state := ((s.jump32Regs s.l0).run 64).apply s.g32.state } })

/-- RETREAT32 (R126). -/
def execRetreat32 (s : State) : Host.Outcome State Fault Refusal :=
  .next (complete { s with
    g32 := { s.g32 with state := ((s.jump32Regs (-s.l0)).run 64).apply s.g32.state } })

end Sys2Proof.Machine
end

