-- ==== Sys2Proof/Machine/Pcg64.lean ====
section
/-! DEFINITION. The six commands of context G64 (spec/42_pcg64.md R140 to R145): one engine step of each
(spec/41_pcg32.md R120). -/

namespace Sys2Proof.Machine

/-- CLEAR64 (R140). -/
def execClear64 (s : State) : Host.Outcome State Fault Refusal :=
  .next (complete { s with
    lo := { state := 0#64, inc := 0#64 }
    hi := { state := 0#64, inc := 0#64 }
    status := setBit s.status seeded64Bit false })

/-- SEED64 (R141): LO from (L0, L2), HI from (L1, L3 kept distinct from L2). -/
def execSeed64 (s : State) : Host.Outcome State Fault Refusal :=
  .next (complete { s with
    lo := seedLane s.lo s.l0 s.l2
    hi := seedLane s.hi s.l1 (distinctSeq2 s.l2 s.l3)
    status := setBit s.status seeded64Bit true })

/-- RANDOM64 (R142). -/
def execRandom64 (s : State) : Host.Outcome State Fault Refusal :=
  let d := draw64 s.lo s.hi
  .next (completeWith d.1 { s with lo := d.2.1, hi := d.2.2 })

/-- BOUNDED64 (R143), one draw of the loop of 40_datapath.md R109 on the working copies of the lanes (R120). -/
def execBounded64 (s : State) : Host.Outcome State Fault Refusal :=
  if s.bound64 = 0#64 then .next (completeWith 0#64 s)
  else
    let (t, n, lo, hi) := s.bounded64Work
    let d := draw64 lo hi
    if t ≤ d.1 then .next (completeWith (d.1 % s.bound64) { s with lo := d.2.1, hi := d.2.2 })
    else .next { s with inFlight := .bounded64 t (n + 1) d.2.1 d.2.2 }

/-- ADVANCE64 (R144): each lane jumps by the same delta with its own increment. -/
def execAdvance64 (s : State) : Host.Outcome State Fault Refusal :=
  let r := s.jump64Regs s.l0
  .next (complete { s with
    lo := { s.lo with state := (r.1.run 64).apply s.lo.state }
    hi := { s.hi with state := (r.2.run 64).apply s.hi.state } })

/-- RETREAT64 (R145): ADVANCE64 with the negated delta. -/
def execRetreat64 (s : State) : Host.Outcome State Fault Refusal :=
  let r := s.jump64Regs (-s.l0)
  .next (complete { s with
    lo := { s.lo with state := (r.1.run 64).apply s.lo.state }
    hi := { s.hi with state := (r.2.run 64).apply s.hi.state } })

end Sys2Proof.Machine
end

