-- ==== Sys2Proof/Machine/Dispatch.lean ====
section
/-! DEFINITION. One arm per command: one engine step of it (spec/41_pcg32.md R120). -/

namespace Sys2Proof.Machine

def exec (i : Instr) (s : State) : Host.Outcome State Fault Refusal :=
  match i with
  | .clear32 => Sys2Proof.Machine.execClear32 s
  | .seed32 => Sys2Proof.Machine.execSeed32 s
  | .random32 => Sys2Proof.Machine.execRandom32 s
  | .bounded32 => Sys2Proof.Machine.execBounded32 s
  | .advance32 => Sys2Proof.Machine.execAdvance32 s
  | .retreat32 => Sys2Proof.Machine.execRetreat32 s
  | .clear64 => Sys2Proof.Machine.execClear64 s
  | .seed64 => Sys2Proof.Machine.execSeed64 s
  | .random64 => Sys2Proof.Machine.execRandom64 s
  | .bounded64 => Sys2Proof.Machine.execBounded64 s
  | .advance64 => Sys2Proof.Machine.execAdvance64 s
  | .retreat64 => Sys2Proof.Machine.execRetreat64 s

end Sys2Proof.Machine
end

