-- ==== Sys2Proof/Machine/Engine.lean ====
section
/-! DEFINITION. The engine's turn (spec/41_pcg32.md R120, spec/10_state.md R20). -/

namespace Sys2Proof.Machine

/-- An engine turn (R120): while a command is in flight, one engine step of the command that LCMD holds; while none is,
nothing (R20: "The engine takes no step while no command is in flight"). -/
def engineTurn (s : State) : Host.Outcome State Fault Refusal :=
  if s.busy then
    match decode s.lcmd with
    | .ok i => exec i s
    | .error _ => .fault .illegalWordInFlight
  else .next s

/-- The command word `w` in flight, as an acceptance leaves it (30_encoding.md R89), and the engine's turn next. -/
def placeCommand (w : Word) (s : State) : State :=
  { latchCommand w s with schedule := .engine :: s.schedule }

end Sys2Proof.Machine
end

