-- ==== Sys2Proof/Machine/Step.lean ====
section
/-! DEFINITION. One step of the machine: one turn of the schedule (log 1, log 2). -/

namespace Sys2Proof.Machine

/-- One step: the next turn of the schedule, or, with nothing scheduled, an engine turn (log 2). -/
def step (s : State) : Host.Outcome State Fault Refusal :=
  match s.schedule with
  | [] => engineTurn s
  | .engine :: rest => engineTurn { s with schedule := rest }
  | .access a :: rest => .next (hostAccess a.off a.size a.dir { s with schedule := rest })
  | .bus addr size d :: rest => .next (busAccess addr size d { s with schedule := rest })
  | .poll :: rest => .next (pollRound { s with schedule := rest })
  | .reset :: rest => .next (resetBlock { s with schedule := rest })

/-- `s` with the command whose word is `w` in flight and the engine's turn next, so that the next step runs it (log 5). -/
def State.withFetchWord (s : State) (nbits w : Nat) : State := placeCommand (tableWord nbits w) s

end Sys2Proof.Machine
end

