-- ==== Sys2Proof/Machine/HostSyntax.lean ====
section
/-! DEFINITION. The host statements and pseudo-instructions (spec/30_encoding.md R93 to R95) as turns of the schedule. -/

namespace Sys2Proof.Machine

/-- The turn of a host statement (R93, R94). -/
def Stmt.turn : Stmt → Turn
  | .wr r v => .access { off := regOffset r, size := 8, dir := .write v }
  | .rd r => .access { off := regOffset r, size := 8, dir := .read }
  | .cmd i => .access { off := regOffset .cmd, size := 8, dir := .write (encode i) }
  | .poll => .poll

/-- The statements a pseudo-instruction expands to (R95). -/
def Pseudo.expand : Pseudo → List Stmt
  | .clear32 => [.cmd .clear32, .poll]
  | .seed32 s q => [.wr .op0 s, .wr .op1 q, .cmd .seed32, .poll]
  | .random32 => [.cmd .random32, .poll, .rd .res]
  | .bounded32 b => [.wr .op0 b, .cmd .bounded32, .poll, .rd .res]
  | .advance32 d => [.wr .op0 d, .cmd .advance32, .poll]
  | .retreat32 d => [.wr .op0 d, .cmd .retreat32, .poll]
  | .clear64 => [.cmd .clear64, .poll]
  | .seed64 s1 s2 q1 q2 => [.wr .op0 s1, .wr .op1 s2, .wr .op2 q1, .wr .op3 q2, .cmd .seed64, .poll]
  | .random64 => [.cmd .random64, .poll, .rd .res]
  | .bounded64 b => [.wr .op0 b, .cmd .bounded64, .poll, .rd .res]
  | .advance64 d => [.wr .op0 d, .cmd .advance64, .poll]
  | .retreat64 d => [.wr .op0 d, .cmd .retreat64, .poll]
  | .clrerr => [.wr .status 0x1F00#64]

/-- The turns of a pseudo-instruction. -/
def Pseudo.turns (p : Pseudo) : List Turn := (Pseudo.expand p).map Stmt.turn

end Sys2Proof.Machine
end

