-- ==== Sys2Proof/Safety.lean ====
section
/-! DEFINITION. The terms claims use: what a step is about to do, the invariant of the machine, and lanes stepped n times.
Nothing here is used by the machine itself. -/

namespace Sys2Proof.Machine

/-! ### Lanes -/

/-- The unseeded lane (spec/10_state.md R24, spec/40_datapath.md R116): "zero-state, zero-increment". -/
def Lane.zero : Lane := { state := 0#64, inc := 0#64 }

/-- The lane `n` LCG steps on. -/
def Lane.steps (l : Lane) (n : Nat) : Lane := Lane.next^[n] l

/-- The draw a lane gives after `n` steps (40_datapath.md R103). -/
def Lane.drawAt (l : Lane) (n : Nat) : Word32 := xshRr32 (l.steps n).state

/-- The 64-bit draw that LO and HI give after `n` steps each (40_datapath.md R104). -/
def draw64At (lo hi : Lane) (n : Nat) : Word := concat32 (hi.drawAt n) (lo.drawAt n)

/-! ### What the next step is -/

/-- The host access that the next step performs, POLL's read of STATUS among them. -/
def State.accessNow (s : State) : Option Access :=
  match s.schedule with
  | .access a :: _ => some a
  | .bus addr size d :: _ => (windowOffset addr).map fun off => { off := off, size := size, dir := d }
  | .poll :: _ => some { off := 0x10, size := 8, dir := .read }
  | .engine :: _ => none
  | .reset :: _ => none
  | [] => none

/-- Whether the next step is the reset input. -/
def State.resetNow (s : State) : Bool :=
  match s.schedule with
  | .reset :: _ => true
  | _ => false

/-- The value that the next step writes by a legal access to the register at `off` (20_memory.md R63), if it does. -/
def State.writeNow (s : State) (off : Fin 256) : Option Word :=
  match s.accessNow with
  | some { off := o, size := n, dir := .write v } => if o = off ∧ n = 8 ∧ off.val % 8 = 0 then some v else none
  | _ => none

/-- The command that the next step runs on the engine, if it runs one. -/
def State.engineNow (s : State) : Option Instr :=
  match s.schedule with
  | [] | .engine :: _ =>
    if s.busy then
      match decode s.lcmd with
      | .ok i => some i
      | .error _ => none
    else none
  | _ => none

/-- Whether a word is one of the twelve command words. -/
def isCommand (w : Word) : Bool :=
  match decode w with
  | .ok _ => true
  | .error _ => false

/-- Whether a word is rejected for its operand: BOUNDED32's word with `OP0[63:32] != 0` (30_encoding.md R90). -/
def State.wideBound (s : State) (w : Word) : Bool := w == 0x4#64 && s.op0.extractLsb' 32 32 != 0#32

/-- The command word that the next step accepts (30_encoding.md R92), if it does. -/
def State.acceptNow (s : State) : Option Word :=
  match s.writeNow 0x18 with
  | some w => if s.busy = false ∧ isCommand w = true ∧ s.wideBound w = false then some w else none
  | none => none

/-- Whether a word's FUNC is 3 to 6 and its context is unseeded (60_exceptions.md R166). -/
def State.unseededUse (s : State) (w : Word) : Bool :=
  let func := w.extractLsb' 0 4
  (func == 3#4 || func == 4#4 || func == 5#4 || func == 6#4) &&
    ((!w.getLsbD 4 && !s.seeded32) || (w.getLsbD 4 && !s.seeded64))

/-- The word that the next step records for an event that it raises (60_exceptions.md R161 to R166), if it raises it;
ErrAccess records none, and its word here is 0. -/
def State.eventNow (s : State) (e : Event) : Option Word :=
  match e with
  | .errIllegal => (s.writeNow 0x18).filter fun w => !s.busy && !isCommand w
  | .errOverrun => (s.writeNow 0x18).filter fun _ => s.busy
  | .errOperand => (s.writeNow 0x18).filter fun w => !s.busy && s.wideBound w
  | .errAccess =>
    match s.accessNow with
    | some a => if a.size = 8 ∧ a.off.val % 8 = 0 then none else some 0#64
    | none => none
  | .warnUnseeded => s.acceptNow.filter fun w => s.unseededUse w

/-! ### The invariant -/

/-- The working values agree with the command in flight (10_state.md R52): BOUNDED's are its threshold and its lanes
after the draws so far, each of them rejected (40_datapath.md R109), every other command's are the ones it starts with. -/
def State.flightOk (i : Instr) (s : State) : Prop :=
  match i with
  | .bounded32 =>
    s.l0.extractLsb' 32 32 = 0#32 ∧
    (s.bound32 = 0#32 → s.inFlight = .none) ∧
    (s.bound32 ≠ 0#32 → ∃ n, s.inFlight = .bounded32 (threshold32 s.bound32) n (s.g32.steps n) ∧
      ∀ k < n, s.g32.drawAt k < threshold32 s.bound32)
  | .bounded64 =>
    (s.bound64 = 0#64 → s.inFlight = .none) ∧
    (s.bound64 ≠ 0#64 → ∃ n, s.inFlight = .bounded64 (threshold64 s.bound64) n (s.lo.steps n) (s.hi.steps n) ∧
      ∀ k < n, draw64At s.lo s.hi k < threshold64 s.bound64)
  | .clear32 | .seed32 | .random32 | .advance32 | .retreat32 => s.inFlight = startFlight i s
  | .clear64 | .seed64 | .random64 | .advance64 | .retreat64 => s.inFlight = startFlight i s

/-- The invariant of the machine: what the spec says of every state that a run meets. -/
structure State.Inv (s : State) : Prop where
  /-- reserved STATUS bits are 0 (10_state.md R43) -/
  reserved : s.status &&& ~~~statusMask = 0#64
  /-- an unseeded context is all zero (40_datapath.md R116) -/
  unseeded32 : s.seeded32 = false → s.g32 = Lane.zero
  /-- a seeded lane has an odd increment (10_state.md R24) -/
  seeded32 : s.seeded32 = true → s.g32.inc.getLsbD 0 = true
  unseeded64 : s.seeded64 = false → s.lo = Lane.zero ∧ s.hi = Lane.zero
  /-- both increments are odd (R24), and they differ (40_datapath.md R115) -/
  seeded64 : s.seeded64 = true →
    s.lo.inc.getLsbD 0 = true ∧ s.hi.inc.getLsbD 0 = true ∧ s.lo.inc ≠ s.hi.inc
  /-- no working values while the engine is idle (10_state.md R52, R54) -/
  idle : s.busy = false → s.inFlight = .none
  /-- the word in flight is a command (30_encoding.md R92), and the working values are its -/
  inFlight : s.busy = true → ∃ i, decode s.lcmd = .ok i ∧ s.flightOk i
  /-- RV is 0 while a command is in flight (10_state.md R35) -/
  noResult : s.busy = true → s.rv = false

/-- The command `i` in flight has taken no engine step yet: no working values are held, or the ones it starts with. -/
def State.fresh (i : Instr) (s : State) : Prop := s.inFlight = .none ∨ s.inFlight = startFlight i s

/-- A host's CMD write of a command (30_encoding.md R93) and one engine turn after it. -/
def commandTurns (i : Instr) : List Turn := [Stmt.turn (.cmd i), .engine]

/-- No run from here stops: every number of steps gives a state. -/
def State.neverStops (s : State) : Prop := ∀ n, ∃ t, Host.Core.run core n s = .next t

end Sys2Proof.Machine
end

