-- ==== Sys2Proof/Certificates/Slice0/Obligations.lean ====
section
/-! DEFINITION. The statements for the provers. Each docstring names the rule of spec/ it formalises, or, where it rests on
a choice of the model, the log entry. -/

open Sys2Proof Sys2Proof.Machine

/-! ### Encoding -/

/-- The command words of 30_encoding.md R84, literal by literal. -/
def Sys2Proof.tableCommandWord : Instr → Word
  | .clear32 => 0x0000000000000001#64
  | .seed32 => 0x0000000000000002#64
  | .random32 => 0x0000000000000003#64
  | .bounded32 => 0x0000000000000004#64
  | .advance32 => 0x0000000000000005#64
  | .retreat32 => 0x0000000000000006#64
  | .clear64 => 0x0000000000000011#64
  | .seed64 => 0x0000000000000012#64
  | .random64 => 0x0000000000000013#64
  | .bounded64 => 0x0000000000000014#64
  | .advance64 => 0x0000000000000015#64
  | .retreat64 => 0x0000000000000016#64

/-- Words written out from R84 and illegal words of 95_test_vectors.md V-E-8 to V-E-10. -/
def Obligations.SampleWordsDecodeAsTheTableSays : Prop :=
  decode 0x01#64 = .ok .clear32 ∧ decode 0x03#64 = .ok .random32 ∧ decode 0x06#64 = .ok .retreat32 ∧
  decode 0x12#64 = .ok .seed64 ∧ decode 0x14#64 = .ok .bounded64 ∧ decode 0x15#64 = .ok .advance64 ∧
  decode 0x00#64 = .error .funcZero ∧ decode 0x17#64 = .error .funcReserved ∧
  decode 0x23#64 = .error .reservedBits ∧ decode 0x8000000000000003#64 = .error .reservedBits

/-- R84: of all 64-bit words exactly the twelve of the table decode, each to its own command, every other word is
illegal, and the encoder gives the twelve words. -/
def Obligations.DecodeReturnsTheCommandWhoseWordEqualsW : Prop :=
  (∀ i, encode i = tableCommandWord i) ∧
  (∀ w i, decode w = .ok i ↔ w = tableCommandWord i) ∧
  (∀ w, (∃ e, decode w = .error e) ↔ ∀ i, w ≠ tableCommandWord i)

/-- The condition of 30_encoding.md R85 for an illegal word, bit field by bit field. -/
def Obligations.WordIsIllegalExactlyOnBadFields : Prop :=
  ∀ w : Word, (∃ e, decode w = .error e) ↔
    (w.extractLsb' 5 59 ≠ 0#59 ∨ w.extractLsb' 0 4 = 0#4 ∨ 7 ≤ (w.extractLsb' 0 4).toNat)

/-- 20_memory.md R65's byte numbering: bit j of byte k is bit 8k + j, and the eight bytes give the value back. -/
def Obligations.BytesOfARegisterAreLittleEndian : Prop :=
  (∀ (v : Word) (k j : Nat), k < 8 → j < 8 → (byteOfWord v k).getLsbD j = v.getLsbD (8 * k + j)) ∧
  (∀ v : Word, wordOfBytes (byteOfWord v 0) (byteOfWord v 1) (byteOfWord v 2) (byteOfWord v 3)
    (byteOfWord v 4) (byteOfWord v 5) (byteOfWord v 6) (byteOfWord v 7) = v)

/-! ### Reset, the invariant, whole runs -/

/-- 10_state.md R54's values in the state after reset, and the engine idle: the step with nothing scheduled changes
nothing (log 2). -/
def Obligations.ResetLeavesEveryPieceAtItsTableValue : Prop :=
  (State.reset.g32.state = 0#64 ∧ State.reset.g32.inc = 0#64 ∧ State.reset.lo.state = 0#64 ∧
    State.reset.lo.inc = 0#64 ∧ State.reset.hi.state = 0#64 ∧ State.reset.hi.inc = 0#64) ∧
  (State.reset.status = 0#64 ∧ State.reset.seeded32 = false ∧ State.reset.seeded64 = false) ∧
  (State.reset.op0 = 0#64 ∧ State.reset.op1 = 0#64 ∧ State.reset.op2 = 0#64 ∧ State.reset.op3 = 0#64) ∧
  (State.reset.res = 0#64 ∧ State.reset.errinfo = 0#64) ∧
  (regValue .id State.reset = Config.pcgId ∧ regValue .mult State.reset = 0x5851F42D4C957F2D#64) ∧
  (State.reset.lcmd = 0#64 ∧ State.reset.l0 = 0#64 ∧ State.reset.l1 = 0#64 ∧ State.reset.l2 = 0#64 ∧
    State.reset.l3 = 0#64) ∧
  State.reset.inFlight = .none ∧
  step State.reset = .next State.reset

/-- 70_reset_and_hazards.md R181: reset, whatever the block is doing, leaves no effect of a command in flight. The
model's own fields go on (log 10). -/
def Obligations.ResetAbortsTheCommandInFlight : Prop :=
  ∀ (s : State) (rest : List Turn), s.schedule = .reset :: rest →
    step s = .next {
      g32 := { state := 0#64, inc := 0#64 }, lo := { state := 0#64, inc := 0#64 }
      hi := { state := 0#64, inc := 0#64 }, status := 0#64
      op0 := 0#64, op1 := 0#64, op2 := 0#64, op3 := 0#64, res := 0#64, errinfo := 0#64
      lcmd := 0#64, l0 := 0#64, l1 := 0#64, l2 := 0#64, l3 := 0#64, inFlight := .none
      schedule := rest, reads := s.reads, freeCount := s.freeCount }

/-- The invariant holds after reset, whatever turns follow. -/
def Obligations.ResetMeetsTheInvariant : Prop := ∀ ts, State.Inv { State.reset with schedule := ts }

/-- Every step keeps the invariant `State.Inv`: reserved STATUS bits are 0 (10_state.md R43), an unseeded lane is (0,
0) (40_datapath.md R116) and a seeded one has an odd increment (10_state.md R24), LO's and HI's increments differ
(40_datapath.md R115), an idle engine holds no working values (10_state.md R52, R54), LCMD is a command while BUSY
(30_encoding.md R92), an accepted BOUNDED32's L0[63:32] is 0 (30_encoding.md R90), BOUNDED's draws so far are rejected
(40_datapath.md R109), RV is 0 while BUSY (10_state.md R35). R24, R115 and R116 are the spec's own inferences
("[derived: ...]"); that the working values are those loaded at acceptance is the model's (log 6, DEDUCED). -/
def Obligations.EveryStepKeepsTheInvariant : Prop :=
  ∀ s s' : State, s.Inv → step s = .next s' → s'.Inv

/-- 60_exceptions.md R160: the block "never stops or faults the host". No run from a state of the invariant stops. -/
def Obligations.NoRunStops : Prop := ∀ s : State, s.Inv → s.neverStops

/-- A step with a command in flight and the engine's turn is `exec` of the command that LCMD decodes to, after the turn
is taken off the schedule; with nothing scheduled it is `exec` on the state itself (log 1, log 2). With no command in
flight "the engine takes no step" (10_state.md R20): the turn passes (log 2). -/
def Obligations.StepRunsTheCommandInFlight : Prop :=
  (∀ (s : State) (i : Instr), s.busy = true → decode s.lcmd = .ok i →
    (s.schedule = [] → step s = exec i s) ∧
    (∀ rest, s.schedule = .engine :: rest → step s = exec i { s with schedule := rest })) ∧
  (∀ s : State, s.busy = false →
    (s.schedule = [] → step s = .next s) ∧
    (∀ rest, s.schedule = .engine :: rest → step s = .next { s with schedule := rest }))

/-- The placed command word runs in the very next step (log 5). -/
def Obligations.PlacedCommandRunsNext : Prop :=
  ∀ (s : State) (i : Instr) (n : Nat), n < 2 ^ 64 → decode (BitVec.ofNat 64 n) = .ok i →
    step (s.withFetchWord 64 n) = exec i { s.withFetchWord 64 n with schedule := s.schedule }

/-! ### The register window -/

/-- The architected value at each offset that is a multiple of 8 (10_state.md R30 to R50). -/
def Sys2Proof.Machine.tableRegister (off : Nat) (s : State) : Word :=
  if off = 0x00 then Config.pcgId
  else if off = 0x08 then 0x5851F42D4C957F2D#64
  else if off = 0x10 then s.status
  else if off = 0x20 then s.op0
  else if off = 0x28 then s.op1
  else if off = 0x30 then s.op2
  else if off = 0x38 then s.op3
  else if off = 0x40 then s.res
  else if off = 0x48 then s.errinfo
  else if off = 0x50 then s.g32.state
  else if off = 0x58 then s.g32.inc
  else if off = 0x60 then s.lo.state
  else if off = 0x68 then s.lo.inc
  else if off = 0x70 then s.hi.state
  else if off = 0x78 then s.hi.inc
  else 0#64

/-- The offsets whose reads are unspecified while BUSY = 1 (20_memory.md R67): RES and the six lane registers. -/
def Sys2Proof.Machine.tableUnspecified (off : Nat) : Bool := off == 0x40 || (0x50 ≤ off && off ≤ 0x78)

/-- A legal read (20_memory.md R67) returns the register's value, changes nothing of the block, and the same read again
returns the same value. For RES and the lane registers while BUSY = 1 it returns a fresh free value: the free value's
form is the model's choice (log 3). -/
def Obligations.LegalReadReturnsTheRegisterAndChangesNothing : Prop :=
  ∀ (s : State) (off : Fin 256) (rest : List Turn), off.val % 8 = 0 →
    s.schedule = .access { off := off, size := 8, dir := .read } :: rest →
    ((tableUnspecified off.val && s.busy) = true →
      step s = .next { s with
        schedule := rest
        reads := { off := off, size := 8, value := Config.freeWord s.freeCount } :: s.reads
        freeCount := s.freeCount + 1 }) ∧
    ((tableUnspecified off.val && s.busy) = false →
      step s = .next { s with
        schedule := rest
        reads := { off := off, size := 8, value := tableRegister off.val s } :: s.reads } ∧
      ∀ (rest' : List Turn), rest = .access { off := off, size := 8, dir := .read } :: rest' →
        Host.Core.run core 2 s = .next { s with
          schedule := rest'
          reads := { off := off, size := 8, value := tableRegister off.val s } ::
            { off := off, size := 8, value := tableRegister off.val s } :: s.reads })

/-- R50: reserved offsets read 0, ignore writes, and set no error bit. -/
def Obligations.ReservedOffsetsReadZeroAndIgnoreWrites : Prop :=
  ∀ (s : State) (off : Fin 256) (rest : List Turn), off.val % 8 = 0 → 0x80 ≤ off.val →
    (s.schedule = .access { off := off, size := 8, dir := .read } :: rest →
      step s = .next { s with
        schedule := rest, reads := { off := off, size := 8, value := 0#64 } :: s.reads }) ∧
    (∀ v, s.schedule = .access { off := off, size := 8, dir := .write v } :: rest →
      step s = .next { s with schedule := rest })

/-- A legal write to a read-only register (ID, MULT, RES, ERRINFO and the lane registers) changes nothing (10_state.md
R30). -/
def Obligations.ReadOnlyRegistersIgnoreWrites : Prop :=
  ∀ (s : State) (off : Fin 256) (v : Word) (rest : List Turn),
    (off = 0x00 ∨ off = 0x08 ∨ off = 0x40 ∨ off = 0x48 ∨ off = 0x50 ∨ off = 0x58 ∨ off = 0x60 ∨ off = 0x68 ∨
      off = 0x70 ∨ off = 0x78) →
    s.schedule = .access { off := off, size := 8, dir := .write v } :: rest →
    step s = .next { s with schedule := rest }

/-- OP0 to OP3 after any step (10_state.md R45): 0 after reset, the written value after a legal write, else kept; no
command writes them, and a write is kept whether or not a command is in flight. -/
def Obligations.OperandRegistersHoldTheLastWrite : Prop :=
  ∀ s s' : State, step s = .next s' →
    s'.op0 = (if s.resetNow then 0#64 else (s.writeNow 0x20).getD s.op0) ∧
    s'.op1 = (if s.resetNow then 0#64 else (s.writeNow 0x28).getD s.op1) ∧
    s'.op2 = (if s.resetNow then 0#64 else (s.writeNow 0x30).getD s.op2) ∧
    s'.op3 = (if s.resetNow then 0#64 else (s.writeNow 0x38).getD s.op3)

/-- R64, R165: an access that is not 8 bytes at a multiple of 8 changes nothing but STATUS.ERR_ACCESS, is no command
even at CMD, and a read returns 0. -/
def Obligations.IllegalAccessOnlySetsErrAccess : Prop :=
  ∀ (s : State) (off : Fin 256) (n : Nat) (rest : List Turn), (n ≠ 8 ∨ off.val % 8 ≠ 0) →
    (s.schedule = .access { off := off, size := n, dir := .read } :: rest →
      step s = .next { s with
        schedule := rest
        status := s.status ||| 0x800#64
        reads := { off := off, size := n, value := 0#64 } :: s.reads }) ∧
    (∀ v, s.schedule = .access { off := off, size := n, dir := .write v } :: rest →
      step s = .next { s with schedule := rest, status := s.status ||| 0x800#64 })

/-- R60: the window lies at PCG_BASE, a multiple of 256, and the access at PCG_BASE + off is the access at off. An
access outside the window leaves the block alone: the model's choice (log 8). -/
def Obligations.BusAccessesAreDecodedAtTheBase : Prop :=
  Config.pcgBase % 256 = 0 ∧
  (∀ (s : State) (off : Fin 256) (n : Nat) (d : Dir) (rest : List Turn),
    s.schedule = .bus (Config.pcgBase + off.val) n d :: rest →
    step s = step { s with schedule := .access { off := off, size := n, dir := d } :: rest }) ∧
  (∀ (s : State) (addr n : Nat) (d : Dir) (rest : List Turn),
    (addr < Config.pcgBase ∨ Config.pcgBase + 256 ≤ addr) → s.schedule = .bus addr n d :: rest →
    step s = .next { s with schedule := rest })

/-- POLL (30_encoding.md R93): a read of STATUS that ends the loop when BUSY = 0 and is repeated while BUSY = 1; that
the engine takes one turn between two reads is the model's choice (log 9). -/
def Obligations.PollRepeatsWhileBusy : Prop :=
  ∀ (s : State) (rest : List Turn), s.schedule = .poll :: rest →
    (s.status.getLsbD 0 = false →
      step s = .next { s with
        schedule := rest, reads := { off := 0x10, size := 8, value := s.status } :: s.reads }) ∧
    (s.status.getLsbD 0 = true →
      step s = .next { s with
        schedule := .engine :: .poll :: rest
        reads := { off := 0x10, size := 8, value := s.status } :: s.reads })

/-! ### Command words: rejection and acceptance -/

/-- R162: a CMD write while BUSY = 1, of any word at all, only sets ERR_OVERRUN and ERRINFO. -/
def Obligations.OverrunLosesTheWord : Prop :=
  ∀ (s : State) (w : Word) (rest : List Turn),
    s.schedule = .access { off := 0x18, size := 8, dir := .write w } :: rest → s.busy = true →
    step s = .next { s with schedule := rest, status := s.status ||| 0x200#64, errinfo := w }

/-- R163: an illegal word, while BUSY = 0, only sets ERR_ILLEGAL and ERRINFO. -/
def Obligations.IllegalWordExecutesNothing : Prop :=
  ∀ (s : State) (w : Word) (rest : List Turn),
    s.schedule = .access { off := 0x18, size := 8, dir := .write w } :: rest → s.busy = false →
    (w.extractLsb' 5 59 ≠ 0#59 ∨ w.extractLsb' 0 4 = 0#4 ∨ 7 ≤ (w.extractLsb' 0 4).toNat) →
    step s = .next { s with schedule := rest, status := s.status ||| 0x100#64, errinfo := w }

/-- R164: the BOUNDED32 word, while BUSY = 0 and OP0[63:32] is not 0, only sets ERR_OPERAND and ERRINFO; BOUNDED64's has
no such check. -/
def Obligations.WideBoundIsRejected : Prop :=
  ∀ (s : State) (rest : List Turn),
    s.schedule = .access { off := 0x18, size := 8, dir := .write 0x4#64 } :: rest → s.busy = false →
    s.op0.extractLsb' 32 32 ≠ 0#32 →
    step s = .next { s with schedule := rest, status := s.status ||| 0x400#64, errinfo := 0x4#64 }

/-- Acceptance (30_encoding.md R92): the whole state after it. The word and the operands are latched, RV is 0, BUSY is
1; WARN_UNSEEDED and ERRINFO record the use of an unseeded context, and the command is in flight all the same. The
clause `inFlight := startFlight`, that the working values are loaded at acceptance, is the model's (log 6, DEDUCED). -/
def Obligations.AcceptedCommandIsLatchedAndInFlight : Prop :=
  ∀ (s : State) (i : Instr) (rest : List Turn),
    s.schedule = .access { off := 0x18, size := 8, dir := .write (tableCommandWord i) } :: rest → s.busy = false →
    (i = .bounded32 → s.op0.extractLsb' 32 32 = 0#32) →
    step s = .next { s with
      schedule := rest
      lcmd := tableCommandWord i, l0 := s.op0, l1 := s.op1, l2 := s.op2, l3 := s.op3
      inFlight := startFlight i { s with l0 := s.op0 }
      status := if s.unseededUse (tableCommandWord i) then ((s.status &&& ~~~0x2#64) ||| 0x1001#64)
        else ((s.status &&& ~~~0x2#64) ||| 0x1#64)
      errinfo := if s.unseededUse (tableCommandWord i) then tableCommandWord i else s.errinfo }

/-- R89: the latches are loaded all at once at acceptance; the command rules read only the latches, so operand registers
do not matter to a command's step; and an operand write while BUSY = 1 changes only the operand register. -/
def Obligations.CommandsReadOnlyTheLatches : Prop :=
  (∀ (s s' : State) (w : Word), s.acceptNow = some w → step s = .next s' →
    s'.lcmd = w ∧ s'.l0 = s.op0 ∧ s'.l1 = s.op1 ∧ s'.l2 = s.op2 ∧ s'.l3 = s.op3) ∧
  (∀ (i : Instr) (s t : State) (a b c d : Word), exec i s = .next t →
    exec i { s with op0 := a, op1 := b, op2 := c, op3 := d } =
      .next { t with op0 := a, op1 := b, op2 := c, op3 := d }) ∧
  (∀ (s : State) (v : Word) (rest : List Turn), s.busy = true →
    (s.schedule = .access { off := 0x20, size := 8, dir := .write v } :: rest →
      step s = .next { s with schedule := rest, op0 := v }) ∧
    (s.schedule = .access { off := 0x28, size := 8, dir := .write v } :: rest →
      step s = .next { s with schedule := rest, op1 := v }) ∧
    (s.schedule = .access { off := 0x30, size := 8, dir := .write v } :: rest →
      step s = .next { s with schedule := rest, op2 := v }) ∧
    (s.schedule = .access { off := 0x38, size := 8, dir := .write v } :: rest →
      step s = .next { s with schedule := rest, op3 := v }))

/-! ### STATUS and ERRINFO over any step -/

/-- R38 to R42: each event bit after any step. Its event sets it, a legal STATUS write with a 1 in its place clears it,
reset clears it, nothing else changes it. -/
def Obligations.EventBitsChangeOnlyByEventClearAndReset : Prop :=
  ∀ s s' : State, step s = .next s' → ∀ e : Event,
    s'.eventBit e = (!s.resetNow && ((s.eventNow e).isSome ||
      (s.eventBit e && !((s.writeNow 0x10).getD 0#64).getLsbD e.code)))

/-- R47: ERRINFO, the register at 0x48, after any step: 0 after reset, the word of the event that records one, else
kept, whatever is written to it or cleared in STATUS. -/
def Obligations.ErrinfoHoldsTheLastRecordedWord : Prop :=
  (∀ s : State, windowValue 0x48 s = s.errinfo) ∧
  (∀ s s' : State, step s = .next s' →
    (s.resetNow = true → s'.errinfo = 0#64) ∧
    (∀ (e : Event) (w : Word), e ≠ .errAccess → s.eventNow e = some w → s'.errinfo = w) ∧
    (s.resetNow = false → (∀ e : Event, e ≠ .errAccess → s.eventNow e = none) → s'.errinfo = s.errinfo))

/-- 60_exceptions.md R168, "A host access raises at most one event" and "An engine step raises no event": if a step
takes the bits of events e and f from 0 to 1, then e is f, the step is a host access, and it is neither an engine step
nor reset. -/
def Obligations.AtMostOneEventAStep : Prop :=
  ∀ (s s' : State) (e f : Event), step s = .next s' →
    s.eventBit e = false → s'.eventBit e = true → s.eventBit f = false → s'.eventBit f = true →
    e = f ∧ s.accessNow.isSome = true ∧ s.engineNow = none ∧ s.resetNow = false

/-- A legal write of v to STATUS (20_memory.md R68, 10_state.md R43): each of bits 8 to 12 is cleared where v has a 1,
every other bit is kept, and nothing else changes. -/
def Obligations.StatusWriteClearsOnlyTheOneBits : Prop :=
  ∀ (s : State) (v : Word) (rest : List Turn),
    s.schedule = .access { off := 0x10, size := 8, dir := .write v } :: rest →
    ∃ x : Word, step s = .next { s with schedule := rest, status := x } ∧
      ∀ j < 64, x.getLsbD j = (s.status.getLsbD j && !(decide (8 ≤ j ∧ j ≤ 12) && v.getLsbD j))

/-- R36, R37: SEEDED32 and SEEDED64 after any step. -/
def Obligations.SeededFlagsChangeOnlyBySeedClearAndReset : Prop :=
  ∀ s s' : State, step s = .next s' →
    s'.seeded32 = (if s.resetNow then false
      else if s.engineNow = some .seed32 then true
      else if s.engineNow = some .clear32 then false else s.seeded32) ∧
    s'.seeded64 = (if s.resetNow then false
      else if s.engineNow = some .seed64 then true
      else if s.engineNow = some .clear64 then false else s.seeded64)

/-- R35, and RES with it (10_state.md R46): RV and RES after any step from a state of the invariant. Reset clears both.
Acceptance clears RV and keeps RES. The completion of a RANDOM or BOUNDED sets RV and writes RES with the command's
result, for BOUNDED the first draw that is not below the threshold, modulo the bound (40_datapath.md R109); the other
commands leave RV 0 at completion and keep RES. A rejected draw, a rejected CMD write and everything else keep both. -/
def Obligations.RvTellsWhetherResHoldsAResult : Prop :=
  ∀ s s' : State, s.Inv → step s = .next s' →
    (s.resetNow = true → s'.rv = false ∧ s'.res = 0#64) ∧
    (s.acceptNow.isSome = true → s'.rv = false ∧ s'.res = s.res) ∧
    (∀ i, s.engineNow = some i → s'.busy = false →
      (s'.rv = true ↔ (i = .random32 ∨ i = .bounded32 ∨ i = .random64 ∨ i = .bounded64)) ∧
      (i ≠ .random32 → i ≠ .bounded32 → i ≠ .random64 → i ≠ .bounded64 → s'.res = s.res) ∧
      (i = .random32 → s'.res = (xshRr32 s.g32.state).zeroExtend 64) ∧
      (i = .random64 → s'.res.extractLsb' 0 32 = xshRr32 s.lo.state ∧ s'.res.extractLsb' 32 32 = xshRr32 s.hi.state) ∧
      (i = .bounded32 → s.bound32 = 0#32 → s'.res = 0#64) ∧
      (i = .bounded32 → s.bound32 ≠ 0#32 → ∃ n, s'.res = (s.g32.drawAt n % s.bound32).zeroExtend 64 ∧
        threshold32 s.bound32 ≤ s.g32.drawAt n ∧ ∀ k < n, s.g32.drawAt k < threshold32 s.bound32) ∧
      (i = .bounded64 → s.bound64 = 0#64 → s'.res = 0#64) ∧
      (i = .bounded64 → s.bound64 ≠ 0#64 → ∃ n, s'.res = draw64At s.lo s.hi n % s.bound64 ∧
        threshold64 s.bound64 ≤ draw64At s.lo s.hi n ∧ ∀ k < n, draw64At s.lo s.hi k < threshold64 s.bound64)) ∧
    (∀ i, s.engineNow = some i → s'.busy = true → s'.rv = s.rv ∧ s'.res = s.res) ∧
    (s.resetNow = false → s.acceptNow = none → s.engineNow = none → s'.rv = s.rv ∧ s'.res = s.res)

/-- 10_state.md R34: BUSY after any step: acceptance sets it, reset clears it, an engine step clears it for every
command but a BOUNDED whose draw was rejected, and nothing else changes it. A BOUNDED's engine step clears it exactly
when the bound is 0 or the threshold is at most the draw (41_pcg32.md R120), both taken from the working values, or the
first ones where none are held (log 6). -/
def Obligations.BusyRisesAtAcceptanceAndFallsAtCompletion : Prop :=
  ∀ s s' : State, step s = .next s' →
    (s.resetNow = true → s'.busy = false) ∧
    (s.acceptNow.isSome = true → s'.busy = true) ∧
    (∀ i, s.engineNow = some i → i ≠ .bounded32 → i ≠ .bounded64 → s'.busy = false) ∧
    (s.engineNow = some .bounded32 →
      (s'.busy = false ↔ (s.bound32 = 0#32 ∨ s.bounded32Work.1 ≤ xshRr32 s.bounded32Work.2.2.state))) ∧
    (s.engineNow = some .bounded64 →
      (s'.busy = false ↔
        (s.bound64 = 0#64 ∨ s.bounded64Work.1 ≤ (draw64 s.bounded64Work.2.2.1 s.bounded64Work.2.2.2).1))) ∧
    (s.resetNow = false → s.acceptNow = none → s.engineNow = none → s'.busy = s.busy)

/-! ### The datapath -/

/-- R102, whole: the bits of the rotation, the case r = 0, and the rule's example. -/
def Obligations.RotationTakesBitIPlusRMod32 : Prop :=
  (∀ (x : Word32) (r i : Nat), r < 32 → i < 32 → (rotr32 x r).getLsbD i = x.getLsbD ((i + r) % 32)) ∧
  (∀ x : Word32, rotr32 x 0 = x) ∧
  rotr32 0x00040000#32 16 = 0x00000004#32

/-- The output permutation bit by bit (40_datapath.md R101, 90_conflicts.md C1): bit i is bit 27 + (i + rot) % 32 of
`old ^ (old >> 18)`, with rot the value of bits 63:59. -/
def Obligations.OutputBitsAreBits58To27Rotated : Prop :=
  ∀ (old : Word) (i : Nat), i < 32 →
    (xshRr32 old).getLsbD i =
      Bool.xor (old.getLsbD (27 + (i + (old.extractLsb' 59 5).toNat) % 32))
        (old.getLsbD (27 + (i + (old.extractLsb' 59 5).toNat) % 32 + 18))

/-- The 32-bit threshold of a nonzero bound (40_datapath.md R107): its two formulas, its range, its zeros and the
rule's corner cases. That it is 0 exactly for powers of two is the spec's own inference, marked "[derived: 2^32 mod b
== 0 iff b divides 2^32]". -/
def Obligations.Threshold32IsTwoTo32ModTheBound : Prop :=
  (∀ b : Word32, b ≠ 0#32 →
    threshold32 b = (-b) % b ∧
    (threshold32 b).toNat = (2 ^ 32 - b.toNat) % b.toNat ∧
    (threshold32 b).toNat = 2 ^ 32 % b.toNat ∧
    threshold32 b < b ∧
    (threshold32 b = 0#32 ↔ b.toNat ∣ 2 ^ 32) ∧
    (threshold32 b = 0#32 ↔ ∃ k, b.toNat = 2 ^ k)) ∧
  threshold32 1#32 = 0#32 ∧ threshold32 3#32 = 1#32 ∧ threshold32 0x80000001#32 = 0x7FFFFFFF#32 ∧
  threshold32 0xFFFFFFFF#32 = 1#32

/-- The 64-bit threshold of a nonzero bound (40_datapath.md R108), and the rule's corner cases. Its value modulo 2^64
and its zeros are the spec's own inference, marked "[derived: as in rule R107]". -/
def Obligations.Threshold64IsTwoTo64ModTheBound : Prop :=
  (∀ b : Word, b ≠ 0#64 →
    threshold64 b = (-b) % b ∧
    (threshold64 b).toNat = 2 ^ 64 % b.toNat ∧
    threshold64 b < b ∧
    (threshold64 b = 0#64 ↔ ∃ k, b.toNat = 2 ^ k)) ∧
  threshold64 1#64 = 0#64 ∧ threshold64 10#64 = 6#64 ∧
  threshold64 0x8000000000000001#64 = 0x7FFFFFFFFFFFFFFF#64 ∧ threshold64 0xFFFFFFFFFFFFFFFF#64 = 1#64

/-- The four items of 40_datapath.md R106 and its example, the spec's own inferences ("each derived and none a separate
requirement"). -/
def Obligations.SeedingHasItsClosedForm : Prop :=
  (∀ (l l' : Lane) (s q : Word), seedLane l s q = seedLane l' s q ∧ seedLane (seedLane l s q) s q = seedLane l s q) ∧
  (∀ (l : Lane) (s q : Word),
    (seedLane l s q).inc = (q <<< 1) ||| 1#64 ∧
    (seedLane l s q).state = lcgStep ((seedLane l s q).inc + s) (seedLane l s q).inc ∧
    (seedLane l s q).state =
      0x5851F42D4C957F2D#64 * ((seedLane l s q).inc + s) + (seedLane l s q).inc) ∧
  (∀ (l : Lane) (s q q' : Word), (seedLane l s q).inc.getLsbD 0 = true ∧
    (q.extractLsb' 0 63 = q'.extractLsb' 0 63 → seedLane l s q = seedLane l s q')) ∧
  (∀ (l : Lane) (s q : Word),
    Lane.next { seedLane l s q with state := (seedLane l s q).inc + s } = seedLane l s q ∧
    retreat (seedLane l s q).state 1#64 (seedLane l s q).inc = (seedLane l s q).inc + s) ∧
  (∀ l : Lane, seedLane l 1#64 1#64 = { state := 0x6147D0B53255FCB7#64, inc := 3#64 })

/-- The jump law of 40_datapath.md R111, the spec's own inference ("[derived: from rule R110 by induction on i]"): the
jump by n is n LCG steps; after i iterations the current map is 2^i steps and the accumulated map the steps selected by
delta[i-1:0]; the closed forms; and iterations with no delta remaining accumulate nothing. -/
def Obligations.JumpEqualsRepeatedSteps : Prop :=
  (∀ s delta c : Word, jump s delta c = (fun x => lcgStep x c)^[delta.toNat] s) ∧
  (∀ (delta c x : Word) (i : Nat), i ≤ 64 →
    let r := (JumpRegs.load delta c).run i
    x * r.curMult + r.curPlus = (fun y => lcgStep y c)^[2 ^ i] x ∧
    r.apply x = (fun y => lcgStep y c)^[delta.toNat % 2 ^ i] x) ∧
  (∀ delta c : Word,
    let r := (JumpRegs.load delta c).run 64
    r.accMult = Config.multiplier ^ delta.toNat ∧
    r.accPlus = c * (∑ j ∈ Finset.range delta.toNat, Config.multiplier ^ j)) ∧
  (∀ (r : JumpRegs) (n : Nat), r.delta = 0#64 →
    (r.run n).accMult = r.accMult ∧ (r.run n).accPlus = r.accPlus)

/-- 40_datapath.md R112: with an odd increment the LCG has period exactly 2^64 and 2^64 - d steps undo d, which is the
source's "full period 2^64"; jumps add modulo 2^64, which is the spec's own inference ("[derived: from rule R111 and the
source's full-period statement]"). -/
def Obligations.OddIncrementHasFullPeriod : Prop :=
  ∀ c : Word, c.getLsbD 0 = true →
    (∀ s : Word, (fun x => lcgStep x c)^[2 ^ 64] s = s) ∧
    (∀ (s : Word) (n : Nat), 0 < n → n < 2 ^ 64 → (fun x => lcgStep x c)^[n] s ≠ s) ∧
    (∀ s a b : Word, jump (jump s a c) b c = jump s (a + b) c) ∧
    (∀ (s : Word) (d : Nat), d < 2 ^ 64 → (fun x => lcgStep x c)^[d] (jump s (BitVec.ofNat 64 (2 ^ 64 - d)) c) = s)

/-- 40_datapath.md R113: retreat is the jump by the negated delta, with the rule's corner cases and example; that it
undoes the jump on a seeded or an unseeded lane is the spec's own inference ("[derived: from rule R112 for odd c; from
rule R110"...). -/
def Obligations.RetreatUndoesTheJump : Prop :=
  (∀ s d c : Word, retreat s d c = jump s (-d) c) ∧
  (∀ s d c : Word, (c.getLsbD 0 = true ∨ (s = 0#64 ∧ c = 0#64)) →
    jump (jump s d c) (-d) c = s) ∧
  (∀ s c : Word, retreat s 0#64 c = s ∧ retreat s 1#64 c = jump s 0xFFFFFFFFFFFFFFFF#64 c) ∧
  (∀ l : Lane, retreat (seedLane l 1#64 1#64).state 1#64 (seedLane l 1#64 1#64).inc = 4#64)

/-- `distinct_seq2` (40_datapath.md R114) by its two cases; that the two increments then differ is the spec's own
inference (R115, "[derived: from rules R106, R114]"). -/
def Obligations.SecondStreamIsKeptDistinct : Prop :=
  ∀ q1 q2 : Word,
    (q1.extractLsb' 0 63 = q2.extractLsb' 0 63 → distinctSeq2 q1 q2 = ~~~q2) ∧
    (q1.extractLsb' 0 63 ≠ q2.extractLsb' 0 63 → distinctSeq2 q1 q2 = q2) ∧
    (q1 <<< 1) ||| 1#64 ≠ (distinctSeq2 q1 q2 <<< 1) ||| 1#64

/-! ### Commands of G32: what one engine step does, the whole next state -/

/-- CLEAR32 (41_pcg32.md R121): STATUS loses bits 0 (BUSY) and 2 (SEEDED32). -/
def Obligations.Clear32ZeroesG32 : Prop :=
  ∀ s : State, exec .clear32 s = .next { s with
    g32 := { state := 0#64, inc := 0#64 }, status := s.status &&& ~~~0x5#64, inFlight := .none }

/-- SEED32 (R122), with R106's closed form: STATUS gains bit 2 (SEEDED32) and loses bit 0 (BUSY). -/
def Obligations.Seed32SeedsG32 : Prop :=
  ∀ (s : State) (inc : Word), inc = (s.l1 <<< 1) ||| 1#64 →
    exec .seed32 s = .next { s with
      g32 := { state := 6364136223846793005#64 * (inc + s.l0) + inc, inc := inc }
      status := (s.status ||| 0x4#64) &&& ~~~0x1#64, inFlight := .none }

/-- RANDOM32 (R123): the draw of the old state in RES[31:0], RES[63:32] zero, one LCG step, RV set, BUSY cleared. -/
def Obligations.Random32DrawsOnce : Prop :=
  ∀ s : State, ∃ r : Word, exec .random32 s = .next { s with
      g32 := { state := 6364136223846793005#64 * s.g32.state + s.g32.inc, inc := s.g32.inc }
      res := r, status := (s.status ||| 0x2#64) &&& ~~~0x1#64, inFlight := .none } ∧
    r.extractLsb' 0 32 = xshRr32 s.g32.state ∧ r.extractLsb' 32 32 = 0#32

/-- BOUNDED32 (R124, R109), one engine step: a bound of 0 completes with 0 and no draw; an accepted draw completes with
the draw modulo the bound; a rejected one leaves everything but the working values; the working values are the ones
held, or the first ones where none are held (log 6). -/
def Obligations.Bounded32TakesOneDrawAStep : Prop :=
  (∀ s : State, s.l0.extractLsb' 0 32 = 0#32 →
    exec .bounded32 s = .next { s with
      res := 0#64, status := (s.status ||| 0x2#64) &&& ~~~0x1#64, inFlight := .none }) ∧
  (∀ (s : State) (b t : Word32) (n : Nat) (l : Lane), s.l0.extractLsb' 0 32 = b → b ≠ 0#32 →
    (s.inFlight = .bounded32 t n l ∨ (s.fresh .bounded32 ∧ t = (-b) % b ∧ n = 0 ∧ l = s.g32)) →
    (t ≤ xshRr32 l.state →
      exec .bounded32 s = .next { s with
        g32 := { state := 6364136223846793005#64 * l.state + l.inc, inc := l.inc }
        res := (xshRr32 l.state % b).zeroExtend 64
        status := (s.status ||| 0x2#64) &&& ~~~0x1#64, inFlight := .none }) ∧
    (xshRr32 l.state < t →
      exec .bounded32 s = .next { s with
        inFlight := .bounded32 t (n + 1)
          { state := 6364136223846793005#64 * l.state + l.inc, inc := l.inc } }))

/-- ADVANCE32 (R125): G32.state is exactly the value delta more LCG steps give; nothing else changes but BUSY. The jump
registers are those loaded at acceptance, or are loaded here (log 6). -/
def Obligations.Advance32StepsDeltaTimes : Prop :=
  ∀ s : State, s.fresh .advance32 → exec .advance32 s = .next { s with
    g32 := { state := (fun x => 6364136223846793005#64 * x + s.g32.inc)^[s.l0.toNat] s.g32.state, inc := s.g32.inc }
    status := s.status &&& ~~~0x1#64, inFlight := .none }

/-- RETREAT32 (R126): the advance by the wraparound negation of delta; on a seeded or an unseeded lane, delta LCG steps
from the new state give the old one. The jump registers are those loaded at acceptance, or are loaded here (log 6). -/
def Obligations.Retreat32StepsBack : Prop :=
  ∀ s : State, s.fresh .retreat32 → ∃ x : Word,
    exec .retreat32 s = .next { s with
      g32 := { state := x, inc := s.g32.inc }, status := s.status &&& ~~~0x1#64, inFlight := .none } ∧
    x = (fun y => 6364136223846793005#64 * y + s.g32.inc)^[(-s.l0).toNat] s.g32.state ∧
    ((s.g32.inc.getLsbD 0 = true ∨ s.g32 = Lane.zero) →
      (fun y => 6364136223846793005#64 * y + s.g32.inc)^[s.l0.toNat] x = s.g32.state)

/-! ### Commands of G64 -/

/-- CLEAR64 (42_pcg64.md R140): STATUS loses bits 0 (BUSY) and 3 (SEEDED64). -/
def Obligations.Clear64ZeroesBothLanes : Prop :=
  ∀ s : State, exec .clear64 s = .next { s with
    lo := { state := 0#64, inc := 0#64 }, hi := { state := 0#64, inc := 0#64 }
    status := s.status &&& ~~~0x9#64, inFlight := .none }

/-- SEED64 (R141): LO from (L0, L2), HI from (L1, L3), L3 complemented where its low 63 bits equal L2's; the increments
differ. -/
def Obligations.Seed64SeedsBothLanesApart : Prop :=
  ∀ (s : State) (q2 ilo ihi : Word),
    q2 = (if s.l2.extractLsb' 0 63 = s.l3.extractLsb' 0 63 then ~~~s.l3 else s.l3) →
    ilo = (s.l2 <<< 1) ||| 1#64 → ihi = (q2 <<< 1) ||| 1#64 →
    ilo ≠ ihi ∧
    exec .seed64 s = .next { s with
      lo := { state := 6364136223846793005#64 * (ilo + s.l0) + ilo, inc := ilo }
      hi := { state := 6364136223846793005#64 * (ihi + s.l1) + ihi, inc := ihi }
      status := (s.status ||| 0x8#64) &&& ~~~0x1#64, inFlight := .none }

/-- RANDOM64 (R142): RES[31:0] is LO's draw, RES[63:32] HI's, each lane takes one LCG step. -/
def Obligations.Random64DrawsBothLanes : Prop :=
  ∀ s : State, ∃ r : Word, exec .random64 s = .next { s with
      lo := { state := 6364136223846793005#64 * s.lo.state + s.lo.inc, inc := s.lo.inc }
      hi := { state := 6364136223846793005#64 * s.hi.state + s.hi.inc, inc := s.hi.inc }
      res := r, status := (s.status ||| 0x2#64) &&& ~~~0x1#64, inFlight := .none } ∧
    r.extractLsb' 0 32 = xshRr32 s.lo.state ∧ r.extractLsb' 32 32 = xshRr32 s.hi.state

/-- BOUNDED64 (R143, R109), one engine step, as BOUNDED32 with the whole 64-bit bound and draw; the working values are
the ones held, or the first ones where none are held (log 6). -/
def Obligations.Bounded64TakesOneDrawAStep : Prop :=
  (∀ s : State, s.l0 = 0#64 →
    exec .bounded64 s = .next { s with
      res := 0#64, status := (s.status ||| 0x2#64) &&& ~~~0x1#64, inFlight := .none }) ∧
  (∀ (s : State) (t r : Word) (n : Nat) (lo hi : Lane), s.l0 ≠ 0#64 →
    (s.inFlight = .bounded64 t n lo hi ∨
      (s.fresh .bounded64 ∧ t = (-s.l0) % s.l0 ∧ n = 0 ∧ lo = s.lo ∧ hi = s.hi)) →
    r.extractLsb' 0 32 = xshRr32 lo.state → r.extractLsb' 32 32 = xshRr32 hi.state →
    (t ≤ r →
      exec .bounded64 s = .next { s with
        lo := { state := 6364136223846793005#64 * lo.state + lo.inc, inc := lo.inc }
        hi := { state := 6364136223846793005#64 * hi.state + hi.inc, inc := hi.inc }
        res := r % s.l0, status := (s.status ||| 0x2#64) &&& ~~~0x1#64, inFlight := .none }) ∧
    (r < t →
      exec .bounded64 s = .next { s with
        inFlight := .bounded64 t (n + 1)
          { state := 6364136223846793005#64 * lo.state + lo.inc, inc := lo.inc }
          { state := 6364136223846793005#64 * hi.state + hi.inc, inc := hi.inc } }))

/-- ADVANCE64 (R144): both lanes take the same delta steps, each with its own increment. The jump registers are those
loaded at acceptance, or are loaded here (log 6). -/
def Obligations.Advance64StepsBothLanesDeltaTimes : Prop :=
  ∀ s : State, s.fresh .advance64 → exec .advance64 s = .next { s with
    lo := { state := (fun x => 6364136223846793005#64 * x + s.lo.inc)^[s.l0.toNat] s.lo.state, inc := s.lo.inc }
    hi := { state := (fun x => 6364136223846793005#64 * x + s.hi.inc)^[s.l0.toNat] s.hi.state, inc := s.hi.inc }
    status := s.status &&& ~~~0x1#64, inFlight := .none }

/-- RETREAT64 (R145): both lanes take the wraparound negation of delta as steps; on seeded or unseeded lanes delta LCG
steps give the old states. The jump registers are those loaded at acceptance, or are loaded here (log 6). -/
def Obligations.Retreat64StepsBothLanesBack : Prop :=
  ∀ s : State, s.fresh .retreat64 → ∃ x y : Word,
    exec .retreat64 s = .next { s with
      lo := { state := x, inc := s.lo.inc }, hi := { state := y, inc := s.hi.inc }
      status := s.status &&& ~~~0x1#64, inFlight := .none } ∧
    x = (fun z => 6364136223846793005#64 * z + s.lo.inc)^[(-s.l0).toNat] s.lo.state ∧
    y = (fun z => 6364136223846793005#64 * z + s.hi.inc)^[(-s.l0).toNat] s.hi.state ∧
    ((s.lo.inc.getLsbD 0 = true ∨ s.lo = Lane.zero) →
      (fun z => 6364136223846793005#64 * z + s.lo.inc)^[s.l0.toNat] x = s.lo.state) ∧
    ((s.hi.inc.getLsbD 0 = true ∨ s.hi = Lane.zero) →
      (fun z => 6364136223846793005#64 * z + s.hi.inc)^[s.l0.toNat] y = s.hi.state)

/-! ### Frames and families -/

/-- The frame of every command's engine step: the latches, the operand registers, ERRINFO, the event bits and reserved
bits of STATUS and the model's own fields are kept by all; the other context's lanes and SEEDED flag by each; RES and
RV by all but RANDOM and BOUNDED; increments and SEEDED by all but SEED and CLEAR; and every byte of the window but
those of STATUS, RES and the lane registers is kept by all. -/
def Obligations.CommandFrames : Prop :=
  ∀ (i : Instr) (s t : State), exec i s = .next t →
    (t.op0 = s.op0 ∧ t.op1 = s.op1 ∧ t.op2 = s.op2 ∧ t.op3 = s.op3 ∧ t.errinfo = s.errinfo ∧ t.lcmd = s.lcmd ∧
      t.l0 = s.l0 ∧ t.l1 = s.l1 ∧ t.l2 = s.l2 ∧ t.l3 = s.l3 ∧ t.schedule = s.schedule ∧ t.reads = s.reads ∧
      t.freeCount = s.freeCount) ∧
    (∀ j, 4 ≤ j → t.status.getLsbD j = s.status.getLsbD j) ∧
    ((tableCommandWord i).getLsbD 4 = false → t.lo = s.lo ∧ t.hi = s.hi ∧ t.seeded64 = s.seeded64) ∧
    ((tableCommandWord i).getLsbD 4 = true → t.g32 = s.g32 ∧ t.seeded32 = s.seeded32) ∧
    (i ≠ .random32 → i ≠ .bounded32 → i ≠ .random64 → i ≠ .bounded64 → t.res = s.res ∧ t.rv = s.rv) ∧
    (i ≠ .seed32 → i ≠ .clear32 → i ≠ .bounded32 → t.g32.inc = s.g32.inc) ∧
    (i ≠ .seed32 → i ≠ .clear32 → t.seeded32 = s.seeded32) ∧
    (i ≠ .seed64 → i ≠ .clear64 → i ≠ .bounded64 → t.lo.inc = s.lo.inc ∧ t.hi.inc = s.hi.inc) ∧
    (i ≠ .seed64 → i ≠ .clear64 → t.seeded64 = s.seeded64) ∧
    (∀ off : Fin 256, off.val / 8 ≠ 2 → off.val / 8 ≠ 8 → (off.val / 8 < 10 ∨ 15 < off.val / 8) →
      windowByte off t = windowByte off s)

/-- R25: which lane fields each command writes, and with what, for the command in flight in a state of the invariant. -/
def Obligations.CommandsWriteTheLaneFieldsOfTheTable : Prop :=
  ∀ (i : Instr) (s t : State), s.Inv → s.busy = true → decode s.lcmd = .ok i → exec i s = .next t →
    (i = .clear32 → t.g32 = Lane.zero ∧ t.lo = s.lo ∧ t.hi = s.hi) ∧
    (i = .seed32 → t.g32 = seedLane s.g32 s.l0 s.l1 ∧ t.lo = s.lo ∧ t.hi = s.hi) ∧
    (i = .random32 → t.g32 = s.g32.steps 1 ∧ t.lo = s.lo ∧ t.hi = s.hi) ∧
    (i = .bounded32 → (∃ n, t.g32 = s.g32.steps n) ∧ t.lo = s.lo ∧ t.hi = s.hi) ∧
    (i = .advance32 ∨ i = .retreat32 → t.g32.inc = s.g32.inc ∧ t.lo = s.lo ∧ t.hi = s.hi ∧
      t.g32.state = jump s.g32.state (if i = .advance32 then s.l0 else -s.l0) s.g32.inc) ∧
    (i = .clear64 → t.g32 = s.g32 ∧ t.lo = Lane.zero ∧ t.hi = Lane.zero) ∧
    (i = .seed64 → t.g32 = s.g32 ∧ t.lo = seedLane s.lo s.l0 s.l2 ∧
      t.hi = seedLane s.hi s.l1 (distinctSeq2 s.l2 s.l3)) ∧
    (i = .random64 → t.g32 = s.g32 ∧ t.lo = s.lo.steps 1 ∧ t.hi = s.hi.steps 1) ∧
    (i = .bounded64 → t.g32 = s.g32 ∧ ∃ n, t.lo = s.lo.steps n ∧ t.hi = s.hi.steps n) ∧
    (i = .advance64 ∨ i = .retreat64 → t.g32 = s.g32 ∧ t.lo.inc = s.lo.inc ∧ t.hi.inc = s.hi.inc ∧
      t.lo.state = jump s.lo.state (if i = .advance64 then s.l0 else -s.l0) s.lo.inc ∧
      t.hi.state = jump s.hi.state (if i = .advance64 then s.l0 else -s.l0) s.hi.inc)

/-- 41_pcg32.md R128 item 3, a law the spec marks as derived, over four steps of the machine from an idle state of the
invariant: the CMD write of ADVANCE32, its engine step, the CMD write of RETREAT32 with the same OP0, its engine step.
G32 is as it was, and the engine is idle. -/
def Obligations.Retreat32InvertsAdvance32 : Prop :=
  ∀ s : State, s.Inv → s.busy = false →
    ∃ u, Host.Core.run core 4 { s with schedule := commandTurns .advance32 ++ commandTurns .retreat32 } = .next u ∧
      u.g32 = s.g32 ∧ u.op0 = s.op0 ∧ u.busy = false

/-- 42_pcg64.md R146 item 2, a law the spec marks as derived, over runs of the machine from any idle states: after
SEED64 (s1, s2, q1, q2), each half of the RES of the (n + 1)-th RANDOM64 is the RES of the (n + 1)-th RANDOM32 after
SEED32, of (s1, q1) for the low half and of (s2, distinct_seq2(q1, q2)) for the high half. Each command is its CMD
write and its engine step. -/
def Obligations.HalvesOf64BitDrawsAre32BitDraws : Prop :=
  ∀ (s p q : State) (n : Nat), s.busy = false → p.busy = false → q.busy = false →
    p.op0 = s.op0 → p.op1 = s.op2 → q.op0 = s.op1 → q.op1 = distinctSeq2 s.op2 s.op3 →
    ∃ u v w,
      Host.Core.run core (2 * (n + 2)) { s with
        schedule := commandTurns .seed64 ++ (List.replicate (n + 1) (commandTurns .random64)).flatten } = .next u ∧
      Host.Core.run core (2 * (n + 2)) { p with
        schedule := commandTurns .seed32 ++ (List.replicate (n + 1) (commandTurns .random32)).flatten } = .next v ∧
      Host.Core.run core (2 * (n + 2)) { q with
        schedule := commandTurns .seed32 ++ (List.replicate (n + 1) (commandTurns .random32)).flatten } = .next w ∧
      u.res.extractLsb' 0 32 = v.res.extractLsb' 0 32 ∧ u.res.extractLsb' 32 32 = w.res.extractLsb' 0 32

/-! ### Headline results over runs -/

/-- The lock-step invariant (10_state.md R27, which the spec marks "[derived: from 42_pcg64.md rules R142 to R145]"):
over any run with no reset and no CLEAR64 or SEED64, from a state of the invariant (the one after SEED64 among them),
LO and HI take the same number of LCG steps. -/
def Obligations.LanesOfG64StayInLockStep : Prop :=
  ∀ (k : Nat) (s t : State), s.Inv → Host.Core.run core k s = .next t →
    (∀ j < k, ∀ u, Host.Core.run core j s = .next u →
      u.resetNow = false ∧ u.engineNow ≠ some .clear64 ∧ u.engineNow ≠ some .seed64) →
    ∃ n, t.lo = s.lo.steps n ∧ t.hi = s.hi.steps n

/-- The rejection loop (40_datapath.md R109, R124): with BOUNDED32 in flight and no step taken (working values: log 6),
n the first draw that is not below the threshold, the engine completes after n + 1 steps with that draw modulo the
bound, G32 n + 1 steps on; the engine runs alone here (log 2). -/
def Obligations.Bounded32ReturnsTheFirstAcceptedDraw : Prop :=
  ∀ (s : State) (n : Nat), s.schedule = [] → s.busy = true → decode s.lcmd = .ok .bounded32 → s.fresh .bounded32 →
    s.bound32 ≠ 0#32 → (∀ k < n, s.g32.drawAt k < threshold32 s.bound32) → threshold32 s.bound32 ≤ s.g32.drawAt n →
    Host.Core.run core (n + 1) s = .next { s with
      g32 := s.g32.steps (n + 1)
      res := (s.g32.drawAt n % s.bound32).zeroExtend 64
      status := (s.status ||| 0x2#64) &&& ~~~0x1#64, inFlight := .none }

/-- The rejection loop of BOUNDED64 (R143), as BOUNDED32's (log 2, log 6). -/
def Obligations.Bounded64ReturnsTheFirstAcceptedDraw : Prop :=
  ∀ (s : State) (n : Nat), s.schedule = [] → s.busy = true → decode s.lcmd = .ok .bounded64 → s.fresh .bounded64 →
    s.bound64 ≠ 0#64 → (∀ k < n, draw64At s.lo s.hi k < threshold64 s.bound64) →
    threshold64 s.bound64 ≤ draw64At s.lo s.hi n →
    Host.Core.run core (n + 1) s = .next { s with
      lo := s.lo.steps (n + 1), hi := s.hi.steps (n + 1)
      res := draw64At s.lo s.hi n % s.bound64
      status := (s.status ||| 0x2#64) &&& ~~~0x1#64, inFlight := .none }

/-- 70_reset_and_hazards.md R190, the spec's own inference ("[derived: from 40_datapath.md rules R107 to R109, R116]"):
BOUNDED on an unseeded context with a bound that is neither 0 nor a power of two never completes. Over any run with no
reset BUSY stays 1, whatever the schedule; every CMD write on the way is an overrun, and a POLL is not left; that it
then takes one engine turn and polls again is the model's choice (log 9). -/
def Obligations.UnseededBoundedHangsUntilReset : Prop :=
  ∀ (k : Nat) (s t : State), s.Inv → s.busy = true →
    ((decode s.lcmd = .ok .bounded32 ∧ s.seeded32 = false ∧ s.bound32 ≠ 0#32 ∧ ∀ j, s.bound32.toNat ≠ 2 ^ j) ∨
     (decode s.lcmd = .ok .bounded64 ∧ s.seeded64 = false ∧ s.bound64 ≠ 0#64 ∧ ∀ j, s.bound64.toNat ≠ 2 ^ j)) →
    (∀ j < k, ∀ u, Host.Core.run core j s = .next u → u.resetNow = false) →
    Host.Core.run core k s = .next t →
    t.busy = true ∧ t.lcmd = s.lcmd ∧
    (∀ w, t.writeNow 0x18 = some w → ∃ u, step t = .next u ∧ u.eventBit .errOverrun = true ∧ u.errinfo = w) ∧
    (∀ rest, t.schedule = .poll :: rest → ∃ u, step t = .next u ∧ u.schedule = .engine :: .poll :: rest) ∧
    (t.resetNow = true → ∃ u, step t = .next u ∧ u.busy = false)

/-- 70_reset_and_hazards.md R191: "BOUNDED completes within 2^64 draws" on a seeded context, the spec's own inference
(marked "[derived: from 40_datapath.md rules R101, R107, R108, R112, as follows]"); the engine runs alone here (log 2).
-/
def Obligations.SeededBoundedCompletesWithinTwoTo64Draws : Prop :=
  ∀ s : State, s.Inv → s.schedule = [] → s.busy = true →
    ((decode s.lcmd = .ok .bounded32 ∧ s.seeded32 = true) ∨ (decode s.lcmd = .ok .bounded64 ∧ s.seeded64 = true)) →
    ∃ n t, n ≤ 2 ^ 64 ∧ Host.Core.run core n s = .next t ∧ t.busy = false ∧ t.rv = true
end

