-- ==== Sys2Proof/Laws/Bits.lean ====
section
/-! SUPPORT. The bits of STATUS after its operations. -/

namespace Sys2Proof.Machine

theorem getLsbD_setBit (w : Word) (k j : Nat) (b : Bool) (hk : k < 64) :
    (setBit w k b).getLsbD j = if j = k then b else w.getLsbD j := by
  have hbit : ((1#64 <<< k)).getLsbD j = decide (j = k) := by
    rw [BitVec.getLsbD_shiftLeft, BitVec.getLsbD_one]
    by_cases h : j = k
    · subst h; simp [hk]
    · have : ¬ (j ≥ k ∧ j - k = 0) := by omega
      simp [h]; omega
  unfold setBit
  cases b
  · simp only [Bool.false_eq_true, if_false, BitVec.getLsbD_and, BitVec.getLsbD_not, hbit]
    by_cases h : j = k
    · simp [h]
    · by_cases hj : j < 64
      · simp [h, hj]
      · simp [h, BitVec.getLsbD_of_ge w j (by omega)]
  · simp only [if_true, BitVec.getLsbD_or, hbit]
    by_cases h : j = k <;> simp [h]

/-- The other fields of STATUS are kept. -/
theorem getLsbD_setBit_ne (w : Word) {k j : Nat} (b : Bool) (hk : k < 64) (h : j ≠ k) :
    (setBit w k b).getLsbD j = w.getLsbD j := by
  rw [getLsbD_setBit w k j b hk, if_neg h]

/-- The field set reads as set. -/
theorem getLsbD_setBit_self (w : Word) (k : Nat) (b : Bool) (hk : k < 64) :
    (setBit w k b).getLsbD k = b := by
  rw [getLsbD_setBit w k k b hk, if_pos rfl]

/-- The same, in the form simp gives a bit whose index it can bound. -/
theorem getElem_setBit (w : Word) (k j : Nat) (b : Bool) (hk : k < 64) (hj : j < 64) :
    (setBit w k b)[j] = if j = k then b else w[j] := by
  rw [← BitVec.getLsbD_eq_getElem, getLsbD_setBit w k j b hk, BitVec.getLsbD_eq_getElem hj]

theorem getLsbD_w1cMask (j : Nat) : w1cMask.getLsbD j = decide (8 ≤ j ∧ j ≤ 12) := by
  by_cases hj : j < 64
  · have : ∀ j : Fin 64, w1cMask.getLsbD j = decide (8 ≤ j.val ∧ j.val ≤ 12) := by decide
    exact this ⟨j, hj⟩
  · rw [BitVec.getLsbD_of_ge _ _ (by omega)]
    symm; rw [decide_eq_false_iff_not]; omega

theorem getLsbD_w1cWrite (w v : Word) (j : Nat) :
    (w1cWrite w v).getLsbD j = (w.getLsbD j && !(v.getLsbD j && decide (8 ≤ j ∧ j ≤ 12))) := by
  unfold w1cWrite
  rw [BitVec.getLsbD_and, BitVec.getLsbD_not, BitVec.getLsbD_and, getLsbD_w1cMask]
  by_cases hj : j < 64
  · simp [hj]
  · simp [BitVec.getLsbD_of_ge w j (by omega)]

theorem event_code_lt (e : Event) : e.code < 64 := by cases e <;> decide

theorem event_code_injective {e f : Event} (h : e.code = f.code) : e = f := by
  cases e <;> cases f <;> first | rfl | (exact absurd h (by decide))

end Sys2Proof.Machine
end

