-- ==== Sys2Proof/Laws/Datapath.lean ====
section
/-! SUPPORT. Laws of the datapath: affine maps, the jump-ahead loop invariant, lanes stepped n times. -/

namespace Sys2Proof.Machine

/-! ### Lanes stepped n times -/

@[simp] theorem Lane.next_state (l : Lane) : l.next.state = lcgStep l.state l.inc := rfl
@[simp] theorem Lane.next_inc (l : Lane) : l.next.inc = l.inc := rfl
@[simp] theorem Lane.steps_zero (l : Lane) : l.steps 0 = l := rfl

theorem Lane.steps_succ (l : Lane) (n : Nat) : l.steps (n + 1) = (l.steps n).next :=
  Function.iterate_succ_apply' Lane.next n l

theorem Lane.steps_add (l : Lane) (m n : Nat) : l.steps (m + n) = (l.steps m).steps n := by
  unfold Lane.steps
  rw [Nat.add_comm, Function.iterate_add_apply]

@[simp] theorem Lane.steps_inc (l : Lane) (n : Nat) : (l.steps n).inc = l.inc := by
  induction n with
  | zero => rfl
  | succ n ih => rw [Lane.steps_succ, Lane.next_inc, ih]

theorem Lane.steps_state (l : Lane) (n : Nat) :
    (l.steps n).state = (fun x => lcgStep x l.inc)^[n] l.state := by
  induction n with
  | zero => rfl
  | succ n ih => rw [Lane.steps_succ, Lane.next_state, ih, Lane.steps_inc, Function.iterate_succ_apply']

theorem Lane.eta (l : Lane) : ({ state := l.state, inc := l.inc } : Lane) = l := rfl

@[simp] theorem Lane.zero_next : Lane.zero.next = Lane.zero := by decide

@[simp] theorem Lane.zero_steps (n : Nat) : Lane.zero.steps n = Lane.zero := by
  induction n with
  | zero => rfl
  | succ n ih => rw [Lane.steps_succ, ih, Lane.zero_next]

/-- A draw gives the output of the state before the step, and the lane one step on (40_datapath.md R103). -/
theorem draw32_eq (l : Lane) : draw32 l = (l.drawAt 0, l.steps 1) := rfl

theorem draw32_steps (l : Lane) (n : Nat) : draw32 (l.steps n) = (l.drawAt n, l.steps (n + 1)) := by
  rw [Lane.steps_succ]; rfl

theorem draw64_steps (lo hi : Lane) (n : Nat) :
    draw64 (lo.steps n) (hi.steps n) = (draw64At lo hi n, lo.steps (n + 1), hi.steps (n + 1)) := by
  rw [Lane.steps_succ, Lane.steps_succ]; rfl

/-! ### The jump-ahead loop -/

theorem JumpRegs.run_add (m n : Nat) (r : JumpRegs) : r.run (m + n) = (r.run m).run n := by
  induction m generalizing r with
  | zero => rw [Nat.zero_add]; rfl
  | succ m ih => rw [Nat.succ_add]; exact ih r.iterate

theorem JumpRegs.run_succ (n : Nat) (r : JumpRegs) : r.run (n + 1) = (r.run n).iterate :=
  JumpRegs.run_add n 1 r

@[simp] theorem JumpRegs.iterate_delta (r : JumpRegs) : r.iterate.delta = r.delta >>> 1 := rfl
@[simp] theorem JumpRegs.iterate_curMult (r : JumpRegs) : r.iterate.curMult = r.curMult * r.curMult := rfl
@[simp] theorem JumpRegs.iterate_curPlus (r : JumpRegs) :
    r.iterate.curPlus = r.curPlus * (r.curMult + 1#64) := rfl

/-- The remaining delta after `n` iterations. -/
theorem JumpRegs.run_delta (n : Nat) (r : JumpRegs) : (r.run n).delta = r.delta >>> n := by
  induction n with
  | zero => simp [JumpRegs.run]
  | succ n ih => rw [JumpRegs.run_succ, JumpRegs.iterate_delta, ih, BitVec.shiftRight_add]

/-- The current map after one iteration is the current map twice. -/
theorem JumpRegs.iterate_current (r : JumpRegs) (x : Word) :
    x * r.iterate.curMult + r.iterate.curPlus =
      (x * r.curMult + r.curPlus) * r.curMult + r.curPlus := by
  simp only [JumpRegs.iterate_curMult, JumpRegs.iterate_curPlus, show (1#64 : Word) = 1 from rfl]
  ring

/-- The accumulated map after one iteration: unchanged, or followed by the current map. -/
theorem JumpRegs.iterate_apply (r : JumpRegs) (x : Word) :
    r.iterate.apply x =
      if r.delta.getLsbD 0 then r.apply x * r.curMult + r.curPlus else r.apply x := by
  unfold JumpRegs.apply JumpRegs.iterate
  cases h : r.delta.getLsbD 0
  · simp
  · simp only [if_true]; ring

/-- With no increment the accumulated constant stays 0: the unseeded lane stays at 0 (40_datapath.md R110). -/
theorem JumpRegs.run_plus_zero (n : Nat) (r : JumpRegs) (ha : r.accPlus = 0#64) (hc : r.curPlus = 0#64) :
    (r.run n).accPlus = 0#64 := by
  induction n generalizing r with
  | zero => exact ha
  | succ n ih =>
    refine ih r.iterate ?_ ?_
    · unfold JumpRegs.iterate; simp [ha, hc]
    · simp [hc]

theorem jump_zero_zero (d : Word) : jump 0#64 d 0#64 = 0#64 := by
  unfold jump JumpRegs.apply
  rw [JumpRegs.run_plus_zero 64 _ rfl rfl]; simp

/-! ### The command in flight -/

/-- A fresh command's jump registers are the loaded ones. -/
theorem jump32Regs_fresh_advance {s : State} (h : s.fresh .advance32) :
    s.jump32Regs s.l0 = .load s.l0 s.g32.inc := by
  obtain h | h := h <;> simp [State.jump32Regs, h, startFlight]

theorem jump32Regs_fresh_retreat {s : State} (h : s.fresh .retreat32) :
    s.jump32Regs (-s.l0) = .load (-s.l0) s.g32.inc := by
  obtain h | h := h <;> simp [State.jump32Regs, h, startFlight]

theorem jump64Regs_fresh_advance {s : State} (h : s.fresh .advance64) :
    s.jump64Regs s.l0 = (.load s.l0 s.lo.inc, .load s.l0 s.hi.inc) := by
  obtain h | h := h <;> simp [State.jump64Regs, h, startFlight]

theorem jump64Regs_fresh_retreat {s : State} (h : s.fresh .retreat64) :
    s.jump64Regs (-s.l0) = (.load (-s.l0) s.lo.inc, .load (-s.l0) s.hi.inc) := by
  obtain h | h := h <;> simp [State.jump64Regs, h, startFlight]

theorem bounded32Work_fresh {s : State} (h : s.fresh .bounded32) :
    s.bounded32Work = (threshold32 s.bound32, 0, s.g32) := by
  obtain h | h := h
  · simp [State.bounded32Work, h]
  · by_cases hb : s.bound32 = 0#32 <;> simp [State.bounded32Work, h, startFlight, hb]

theorem bounded64Work_fresh {s : State} (h : s.fresh .bounded64) :
    s.bounded64Work = (threshold64 s.bound64, 0, s.lo, s.hi) := by
  obtain h | h := h
  · simp [State.bounded64Work, h]
  · by_cases hb : s.bound64 = 0#64 <;> simp [State.bounded64Work, h, startFlight, hb]

end Sys2Proof.Machine
end

