-- ==== Sys2Proof/Laws/State.lean ====
section
/-! SUPPORT. What each shared update of State leaves in each field: one lemma per field per update, true by rfl, so that no
proof unfolds a record update. -/

namespace Sys2Proof.Machine

/-! ### raiseEvent -/

@[simp] theorem raiseEvent_g32 (e : Event) (w : Word) (s : State) :
    (raiseEvent e w s).g32 = s.g32 := rfl
@[simp] theorem raiseEvent_lo (e : Event) (w : Word) (s : State) :
    (raiseEvent e w s).lo = s.lo := rfl
@[simp] theorem raiseEvent_hi (e : Event) (w : Word) (s : State) :
    (raiseEvent e w s).hi = s.hi := rfl
@[simp] theorem raiseEvent_status (e : Event) (w : Word) (s : State) :
    (raiseEvent e w s).status = setBit s.status e.code true := rfl
@[simp] theorem raiseEvent_op0 (e : Event) (w : Word) (s : State) :
    (raiseEvent e w s).op0 = s.op0 := rfl
@[simp] theorem raiseEvent_op1 (e : Event) (w : Word) (s : State) :
    (raiseEvent e w s).op1 = s.op1 := rfl
@[simp] theorem raiseEvent_op2 (e : Event) (w : Word) (s : State) :
    (raiseEvent e w s).op2 = s.op2 := rfl
@[simp] theorem raiseEvent_op3 (e : Event) (w : Word) (s : State) :
    (raiseEvent e w s).op3 = s.op3 := rfl
@[simp] theorem raiseEvent_res (e : Event) (w : Word) (s : State) :
    (raiseEvent e w s).res = s.res := rfl
@[simp] theorem raiseEvent_errinfo (e : Event) (w : Word) (s : State) :
    (raiseEvent e w s).errinfo = if e = .errAccess then s.errinfo else w := rfl
@[simp] theorem raiseEvent_lcmd (e : Event) (w : Word) (s : State) :
    (raiseEvent e w s).lcmd = s.lcmd := rfl
@[simp] theorem raiseEvent_l0 (e : Event) (w : Word) (s : State) :
    (raiseEvent e w s).l0 = s.l0 := rfl
@[simp] theorem raiseEvent_l1 (e : Event) (w : Word) (s : State) :
    (raiseEvent e w s).l1 = s.l1 := rfl
@[simp] theorem raiseEvent_l2 (e : Event) (w : Word) (s : State) :
    (raiseEvent e w s).l2 = s.l2 := rfl
@[simp] theorem raiseEvent_l3 (e : Event) (w : Word) (s : State) :
    (raiseEvent e w s).l3 = s.l3 := rfl
@[simp] theorem raiseEvent_inFlight (e : Event) (w : Word) (s : State) :
    (raiseEvent e w s).inFlight = s.inFlight := rfl
@[simp] theorem raiseEvent_schedule (e : Event) (w : Word) (s : State) :
    (raiseEvent e w s).schedule = s.schedule := rfl
@[simp] theorem raiseEvent_reads (e : Event) (w : Word) (s : State) :
    (raiseEvent e w s).reads = s.reads := rfl
@[simp] theorem raiseEvent_freeCount (e : Event) (w : Word) (s : State) :
    (raiseEvent e w s).freeCount = s.freeCount := rfl

/-! ### clearEvents -/

@[simp] theorem clearEvents_g32 (v : Word) (s : State) :
    (clearEvents v s).g32 = s.g32 := rfl
@[simp] theorem clearEvents_lo (v : Word) (s : State) :
    (clearEvents v s).lo = s.lo := rfl
@[simp] theorem clearEvents_hi (v : Word) (s : State) :
    (clearEvents v s).hi = s.hi := rfl
@[simp] theorem clearEvents_status (v : Word) (s : State) :
    (clearEvents v s).status = w1cWrite s.status v := rfl
@[simp] theorem clearEvents_op0 (v : Word) (s : State) :
    (clearEvents v s).op0 = s.op0 := rfl
@[simp] theorem clearEvents_op1 (v : Word) (s : State) :
    (clearEvents v s).op1 = s.op1 := rfl
@[simp] theorem clearEvents_op2 (v : Word) (s : State) :
    (clearEvents v s).op2 = s.op2 := rfl
@[simp] theorem clearEvents_op3 (v : Word) (s : State) :
    (clearEvents v s).op3 = s.op3 := rfl
@[simp] theorem clearEvents_res (v : Word) (s : State) :
    (clearEvents v s).res = s.res := rfl
@[simp] theorem clearEvents_errinfo (v : Word) (s : State) :
    (clearEvents v s).errinfo = s.errinfo := rfl
@[simp] theorem clearEvents_lcmd (v : Word) (s : State) :
    (clearEvents v s).lcmd = s.lcmd := rfl
@[simp] theorem clearEvents_l0 (v : Word) (s : State) :
    (clearEvents v s).l0 = s.l0 := rfl
@[simp] theorem clearEvents_l1 (v : Word) (s : State) :
    (clearEvents v s).l1 = s.l1 := rfl
@[simp] theorem clearEvents_l2 (v : Word) (s : State) :
    (clearEvents v s).l2 = s.l2 := rfl
@[simp] theorem clearEvents_l3 (v : Word) (s : State) :
    (clearEvents v s).l3 = s.l3 := rfl
@[simp] theorem clearEvents_inFlight (v : Word) (s : State) :
    (clearEvents v s).inFlight = s.inFlight := rfl
@[simp] theorem clearEvents_schedule (v : Word) (s : State) :
    (clearEvents v s).schedule = s.schedule := rfl
@[simp] theorem clearEvents_reads (v : Word) (s : State) :
    (clearEvents v s).reads = s.reads := rfl
@[simp] theorem clearEvents_freeCount (v : Word) (s : State) :
    (clearEvents v s).freeCount = s.freeCount := rfl

/-! ### latchCommand -/

@[simp] theorem latchCommand_g32 (w : Word) (s : State) :
    (latchCommand w s).g32 = s.g32 := rfl
@[simp] theorem latchCommand_lo (w : Word) (s : State) :
    (latchCommand w s).lo = s.lo := rfl
@[simp] theorem latchCommand_hi (w : Word) (s : State) :
    (latchCommand w s).hi = s.hi := rfl
@[simp] theorem latchCommand_status (w : Word) (s : State) :
    (latchCommand w s).status = setBit (setBit s.status rvBit false) busyBit true := rfl
@[simp] theorem latchCommand_op0 (w : Word) (s : State) :
    (latchCommand w s).op0 = s.op0 := rfl
@[simp] theorem latchCommand_op1 (w : Word) (s : State) :
    (latchCommand w s).op1 = s.op1 := rfl
@[simp] theorem latchCommand_op2 (w : Word) (s : State) :
    (latchCommand w s).op2 = s.op2 := rfl
@[simp] theorem latchCommand_op3 (w : Word) (s : State) :
    (latchCommand w s).op3 = s.op3 := rfl
@[simp] theorem latchCommand_res (w : Word) (s : State) :
    (latchCommand w s).res = s.res := rfl
@[simp] theorem latchCommand_errinfo (w : Word) (s : State) :
    (latchCommand w s).errinfo = s.errinfo := rfl
@[simp] theorem latchCommand_lcmd (w : Word) (s : State) :
    (latchCommand w s).lcmd = w := rfl
@[simp] theorem latchCommand_l0 (w : Word) (s : State) :
    (latchCommand w s).l0 = s.op0 := rfl
@[simp] theorem latchCommand_l1 (w : Word) (s : State) :
    (latchCommand w s).l1 = s.op1 := rfl
@[simp] theorem latchCommand_l2 (w : Word) (s : State) :
    (latchCommand w s).l2 = s.op2 := rfl
@[simp] theorem latchCommand_l3 (w : Word) (s : State) :
    (latchCommand w s).l3 = s.op3 := rfl
@[simp] theorem latchCommand_schedule (w : Word) (s : State) :
    (latchCommand w s).schedule = s.schedule := rfl
@[simp] theorem latchCommand_reads (w : Word) (s : State) :
    (latchCommand w s).reads = s.reads := rfl
@[simp] theorem latchCommand_freeCount (w : Word) (s : State) :
    (latchCommand w s).freeCount = s.freeCount := rfl

/-! ### complete -/

@[simp] theorem complete_g32 (s : State) :
    (complete s).g32 = s.g32 := rfl
@[simp] theorem complete_lo (s : State) :
    (complete s).lo = s.lo := rfl
@[simp] theorem complete_hi (s : State) :
    (complete s).hi = s.hi := rfl
@[simp] theorem complete_status (s : State) :
    (complete s).status = setBit s.status busyBit false := rfl
@[simp] theorem complete_op0 (s : State) :
    (complete s).op0 = s.op0 := rfl
@[simp] theorem complete_op1 (s : State) :
    (complete s).op1 = s.op1 := rfl
@[simp] theorem complete_op2 (s : State) :
    (complete s).op2 = s.op2 := rfl
@[simp] theorem complete_op3 (s : State) :
    (complete s).op3 = s.op3 := rfl
@[simp] theorem complete_res (s : State) :
    (complete s).res = s.res := rfl
@[simp] theorem complete_errinfo (s : State) :
    (complete s).errinfo = s.errinfo := rfl
@[simp] theorem complete_lcmd (s : State) :
    (complete s).lcmd = s.lcmd := rfl
@[simp] theorem complete_l0 (s : State) :
    (complete s).l0 = s.l0 := rfl
@[simp] theorem complete_l1 (s : State) :
    (complete s).l1 = s.l1 := rfl
@[simp] theorem complete_l2 (s : State) :
    (complete s).l2 = s.l2 := rfl
@[simp] theorem complete_l3 (s : State) :
    (complete s).l3 = s.l3 := rfl
@[simp] theorem complete_inFlight (s : State) :
    (complete s).inFlight = .none := rfl
@[simp] theorem complete_schedule (s : State) :
    (complete s).schedule = s.schedule := rfl
@[simp] theorem complete_reads (s : State) :
    (complete s).reads = s.reads := rfl
@[simp] theorem complete_freeCount (s : State) :
    (complete s).freeCount = s.freeCount := rfl

/-! ### completeWith -/

@[simp] theorem completeWith_g32 (r : Word) (s : State) :
    (completeWith r s).g32 = s.g32 := rfl
@[simp] theorem completeWith_lo (r : Word) (s : State) :
    (completeWith r s).lo = s.lo := rfl
@[simp] theorem completeWith_hi (r : Word) (s : State) :
    (completeWith r s).hi = s.hi := rfl
@[simp] theorem completeWith_status (r : Word) (s : State) :
    (completeWith r s).status = setBit (setBit s.status rvBit true) busyBit false := rfl
@[simp] theorem completeWith_op0 (r : Word) (s : State) :
    (completeWith r s).op0 = s.op0 := rfl
@[simp] theorem completeWith_op1 (r : Word) (s : State) :
    (completeWith r s).op1 = s.op1 := rfl
@[simp] theorem completeWith_op2 (r : Word) (s : State) :
    (completeWith r s).op2 = s.op2 := rfl
@[simp] theorem completeWith_op3 (r : Word) (s : State) :
    (completeWith r s).op3 = s.op3 := rfl
@[simp] theorem completeWith_res (r : Word) (s : State) :
    (completeWith r s).res = r := rfl
@[simp] theorem completeWith_errinfo (r : Word) (s : State) :
    (completeWith r s).errinfo = s.errinfo := rfl
@[simp] theorem completeWith_lcmd (r : Word) (s : State) :
    (completeWith r s).lcmd = s.lcmd := rfl
@[simp] theorem completeWith_l0 (r : Word) (s : State) :
    (completeWith r s).l0 = s.l0 := rfl
@[simp] theorem completeWith_l1 (r : Word) (s : State) :
    (completeWith r s).l1 = s.l1 := rfl
@[simp] theorem completeWith_l2 (r : Word) (s : State) :
    (completeWith r s).l2 = s.l2 := rfl
@[simp] theorem completeWith_l3 (r : Word) (s : State) :
    (completeWith r s).l3 = s.l3 := rfl
@[simp] theorem completeWith_inFlight (r : Word) (s : State) :
    (completeWith r s).inFlight = .none := rfl
@[simp] theorem completeWith_schedule (r : Word) (s : State) :
    (completeWith r s).schedule = s.schedule := rfl
@[simp] theorem completeWith_reads (r : Word) (s : State) :
    (completeWith r s).reads = s.reads := rfl
@[simp] theorem completeWith_freeCount (r : Word) (s : State) :
    (completeWith r s).freeCount = s.freeCount := rfl

/-! ### logRead -/

@[simp] theorem logRead_g32 (off : Fin 256) (n : Nat) (v : Word) (s : State) :
    (logRead off n v s).g32 = s.g32 := rfl
@[simp] theorem logRead_lo (off : Fin 256) (n : Nat) (v : Word) (s : State) :
    (logRead off n v s).lo = s.lo := rfl
@[simp] theorem logRead_hi (off : Fin 256) (n : Nat) (v : Word) (s : State) :
    (logRead off n v s).hi = s.hi := rfl
@[simp] theorem logRead_status (off : Fin 256) (n : Nat) (v : Word) (s : State) :
    (logRead off n v s).status = s.status := rfl
@[simp] theorem logRead_op0 (off : Fin 256) (n : Nat) (v : Word) (s : State) :
    (logRead off n v s).op0 = s.op0 := rfl
@[simp] theorem logRead_op1 (off : Fin 256) (n : Nat) (v : Word) (s : State) :
    (logRead off n v s).op1 = s.op1 := rfl
@[simp] theorem logRead_op2 (off : Fin 256) (n : Nat) (v : Word) (s : State) :
    (logRead off n v s).op2 = s.op2 := rfl
@[simp] theorem logRead_op3 (off : Fin 256) (n : Nat) (v : Word) (s : State) :
    (logRead off n v s).op3 = s.op3 := rfl
@[simp] theorem logRead_res (off : Fin 256) (n : Nat) (v : Word) (s : State) :
    (logRead off n v s).res = s.res := rfl
@[simp] theorem logRead_errinfo (off : Fin 256) (n : Nat) (v : Word) (s : State) :
    (logRead off n v s).errinfo = s.errinfo := rfl
@[simp] theorem logRead_lcmd (off : Fin 256) (n : Nat) (v : Word) (s : State) :
    (logRead off n v s).lcmd = s.lcmd := rfl
@[simp] theorem logRead_l0 (off : Fin 256) (n : Nat) (v : Word) (s : State) :
    (logRead off n v s).l0 = s.l0 := rfl
@[simp] theorem logRead_l1 (off : Fin 256) (n : Nat) (v : Word) (s : State) :
    (logRead off n v s).l1 = s.l1 := rfl
@[simp] theorem logRead_l2 (off : Fin 256) (n : Nat) (v : Word) (s : State) :
    (logRead off n v s).l2 = s.l2 := rfl
@[simp] theorem logRead_l3 (off : Fin 256) (n : Nat) (v : Word) (s : State) :
    (logRead off n v s).l3 = s.l3 := rfl
@[simp] theorem logRead_inFlight (off : Fin 256) (n : Nat) (v : Word) (s : State) :
    (logRead off n v s).inFlight = s.inFlight := rfl
@[simp] theorem logRead_schedule (off : Fin 256) (n : Nat) (v : Word) (s : State) :
    (logRead off n v s).schedule = s.schedule := rfl
@[simp] theorem logRead_reads (off : Fin 256) (n : Nat) (v : Word) (s : State) :
    (logRead off n v s).reads = { off := off, size := n, value := v } :: s.reads := rfl
@[simp] theorem logRead_freeCount (off : Fin 256) (n : Nat) (v : Word) (s : State) :
    (logRead off n v s).freeCount = s.freeCount := rfl

/-! ### placeCommand -/

@[simp] theorem placeCommand_g32 (w : Word) (s : State) :
    (placeCommand w s).g32 = s.g32 := rfl
@[simp] theorem placeCommand_lo (w : Word) (s : State) :
    (placeCommand w s).lo = s.lo := rfl
@[simp] theorem placeCommand_hi (w : Word) (s : State) :
    (placeCommand w s).hi = s.hi := rfl
@[simp] theorem placeCommand_status (w : Word) (s : State) :
    (placeCommand w s).status = setBit (setBit s.status rvBit false) busyBit true := rfl
@[simp] theorem placeCommand_op0 (w : Word) (s : State) :
    (placeCommand w s).op0 = s.op0 := rfl
@[simp] theorem placeCommand_op1 (w : Word) (s : State) :
    (placeCommand w s).op1 = s.op1 := rfl
@[simp] theorem placeCommand_op2 (w : Word) (s : State) :
    (placeCommand w s).op2 = s.op2 := rfl
@[simp] theorem placeCommand_op3 (w : Word) (s : State) :
    (placeCommand w s).op3 = s.op3 := rfl
@[simp] theorem placeCommand_res (w : Word) (s : State) :
    (placeCommand w s).res = s.res := rfl
@[simp] theorem placeCommand_errinfo (w : Word) (s : State) :
    (placeCommand w s).errinfo = s.errinfo := rfl
@[simp] theorem placeCommand_lcmd (w : Word) (s : State) :
    (placeCommand w s).lcmd = w := rfl
@[simp] theorem placeCommand_l0 (w : Word) (s : State) :
    (placeCommand w s).l0 = s.op0 := rfl
@[simp] theorem placeCommand_l1 (w : Word) (s : State) :
    (placeCommand w s).l1 = s.op1 := rfl
@[simp] theorem placeCommand_l2 (w : Word) (s : State) :
    (placeCommand w s).l2 = s.op2 := rfl
@[simp] theorem placeCommand_l3 (w : Word) (s : State) :
    (placeCommand w s).l3 = s.op3 := rfl
@[simp] theorem placeCommand_schedule (w : Word) (s : State) :
    (placeCommand w s).schedule = .engine :: s.schedule := rfl
@[simp] theorem placeCommand_reads (w : Word) (s : State) :
    (placeCommand w s).reads = s.reads := rfl
@[simp] theorem placeCommand_freeCount (w : Word) (s : State) :
    (placeCommand w s).freeCount = s.freeCount := rfl

/-! ### resetBlock -/

@[simp] theorem resetBlock_g32 (s : State) :
    (resetBlock s).g32 = { state := 0#64, inc := 0#64 } := rfl
@[simp] theorem resetBlock_lo (s : State) :
    (resetBlock s).lo = { state := 0#64, inc := 0#64 } := rfl
@[simp] theorem resetBlock_hi (s : State) :
    (resetBlock s).hi = { state := 0#64, inc := 0#64 } := rfl
@[simp] theorem resetBlock_status (s : State) :
    (resetBlock s).status = 0#64 := rfl
@[simp] theorem resetBlock_op0 (s : State) :
    (resetBlock s).op0 = 0#64 := rfl
@[simp] theorem resetBlock_op1 (s : State) :
    (resetBlock s).op1 = 0#64 := rfl
@[simp] theorem resetBlock_op2 (s : State) :
    (resetBlock s).op2 = 0#64 := rfl
@[simp] theorem resetBlock_op3 (s : State) :
    (resetBlock s).op3 = 0#64 := rfl
@[simp] theorem resetBlock_res (s : State) :
    (resetBlock s).res = 0#64 := rfl
@[simp] theorem resetBlock_errinfo (s : State) :
    (resetBlock s).errinfo = 0#64 := rfl
@[simp] theorem resetBlock_lcmd (s : State) :
    (resetBlock s).lcmd = 0#64 := rfl
@[simp] theorem resetBlock_l0 (s : State) :
    (resetBlock s).l0 = 0#64 := rfl
@[simp] theorem resetBlock_l1 (s : State) :
    (resetBlock s).l1 = 0#64 := rfl
@[simp] theorem resetBlock_l2 (s : State) :
    (resetBlock s).l2 = 0#64 := rfl
@[simp] theorem resetBlock_l3 (s : State) :
    (resetBlock s).l3 = 0#64 := rfl
@[simp] theorem resetBlock_inFlight (s : State) :
    (resetBlock s).inFlight = .none := rfl
@[simp] theorem resetBlock_schedule (s : State) :
    (resetBlock s).schedule = s.schedule := rfl
@[simp] theorem resetBlock_reads (s : State) :
    (resetBlock s).reads = s.reads := rfl
@[simp] theorem resetBlock_freeCount (s : State) :
    (resetBlock s).freeCount = s.freeCount := rfl

end Sys2Proof.Machine
end

