-- ==== Sys2Proof/Laws/Ops.lean ====
section
/-! SUPPORT. One lemma per shared operation, saying all it can do; later proofs cite these and do not unfold the
operation. -/

namespace Sys2Proof.Machine

/-! ### Fields of STATUS -/

theorem busy_def (s : State) : s.busy = s.status.getLsbD 0 := rfl
theorem rv_def (s : State) : s.rv = s.status.getLsbD 1 := rfl
theorem seeded32_def (s : State) : s.seeded32 = s.status.getLsbD 2 := rfl
theorem seeded64_def (s : State) : s.seeded64 = s.status.getLsbD 3 := rfl
theorem eventBit_def (s : State) (e : Event) : s.eventBit e = s.status.getLsbD e.code := rfl

/-- The codes of the events lie above the four read-only fields. -/
theorem event_code_range (e : Event) : 8 ≤ e.code ∧ e.code ≤ 12 := by cases e <;> decide

/-- An event sets its own bit and keeps the others. -/
theorem raiseEvent_bit (e : Event) (w : Word) (s : State) (j : Nat) :
    (raiseEvent e w s).status.getLsbD j = if j = e.code then true else s.status.getLsbD j := by
  simp [getLsbD_setBit _ _ _ _ (event_code_lt e)]

theorem raiseEvent_low (e : Event) (w : Word) (s : State) {j : Nat} (h : j < 8) :
    (raiseEvent e w s).status.getLsbD j = s.status.getLsbD j := by
  rw [raiseEvent_bit, if_neg]; have := event_code_range e; omega

@[simp] theorem raiseEvent_busy (e : Event) (w : Word) (s : State) : (raiseEvent e w s).busy = s.busy :=
  raiseEvent_low e w s (by decide)
@[simp] theorem raiseEvent_rv (e : Event) (w : Word) (s : State) : (raiseEvent e w s).rv = s.rv :=
  raiseEvent_low e w s (by decide)
@[simp] theorem raiseEvent_seeded32 (e : Event) (w : Word) (s : State) :
    (raiseEvent e w s).seeded32 = s.seeded32 := raiseEvent_low e w s (by decide)
@[simp] theorem raiseEvent_seeded64 (e : Event) (w : Word) (s : State) :
    (raiseEvent e w s).seeded64 = s.seeded64 := raiseEvent_low e w s (by decide)

theorem clearEvents_low (v : Word) (s : State) {j : Nat} (h : j < 8) :
    (clearEvents v s).status.getLsbD j = s.status.getLsbD j := by
  rw [clearEvents_status, getLsbD_w1cWrite]
  have : ¬ (8 ≤ j ∧ j ≤ 12) := by omega
  simp [this]

@[simp] theorem clearEvents_busy (v : Word) (s : State) : (clearEvents v s).busy = s.busy :=
  clearEvents_low v s (by decide)
@[simp] theorem clearEvents_rv (v : Word) (s : State) : (clearEvents v s).rv = s.rv :=
  clearEvents_low v s (by decide)
@[simp] theorem clearEvents_seeded32 (v : Word) (s : State) : (clearEvents v s).seeded32 = s.seeded32 :=
  clearEvents_low v s (by decide)
@[simp] theorem clearEvents_seeded64 (v : Word) (s : State) : (clearEvents v s).seeded64 = s.seeded64 :=
  clearEvents_low v s (by decide)

theorem latchCommand_bit (w : Word) (s : State) (j : Nat) :
    (latchCommand w s).status.getLsbD j =
      if j = 0 then true else if j = 1 then false else s.status.getLsbD j := by
  rw [latchCommand_status, getLsbD_setBit _ _ _ _ (by decide), getLsbD_setBit _ _ _ _ (by decide)]

@[simp] theorem latchCommand_busy (w : Word) (s : State) : (latchCommand w s).busy = true := by
  rw [busy_def, latchCommand_bit]; rfl
@[simp] theorem latchCommand_rv (w : Word) (s : State) : (latchCommand w s).rv = false := by
  rw [rv_def, latchCommand_bit]; rfl
@[simp] theorem latchCommand_seeded32 (w : Word) (s : State) : (latchCommand w s).seeded32 = s.seeded32 := by
  rw [seeded32_def, latchCommand_bit]; rfl
@[simp] theorem latchCommand_seeded64 (w : Word) (s : State) : (latchCommand w s).seeded64 = s.seeded64 := by
  rw [seeded64_def, latchCommand_bit]; rfl

theorem complete_bit (s : State) (j : Nat) :
    (complete s).status.getLsbD j = if j = 0 then false else s.status.getLsbD j := by
  rw [complete_status, getLsbD_setBit _ _ _ _ (by decide)]

theorem completeWith_bit (r : Word) (s : State) (j : Nat) :
    (completeWith r s).status.getLsbD j = if j = 0 then false else if j = 1 then true else s.status.getLsbD j := by
  rw [completeWith_status, getLsbD_setBit _ _ _ _ (by decide), getLsbD_setBit _ _ _ _ (by decide)]

@[simp] theorem complete_busy (s : State) : (complete s).busy = false := by rw [busy_def, complete_bit]; rfl
@[simp] theorem complete_rv (s : State) : (complete s).rv = s.rv := by rw [rv_def, complete_bit]; rfl
@[simp] theorem complete_seeded32 (s : State) : (complete s).seeded32 = s.seeded32 := by
  rw [seeded32_def, complete_bit]; rfl
@[simp] theorem complete_seeded64 (s : State) : (complete s).seeded64 = s.seeded64 := by
  rw [seeded64_def, complete_bit]; rfl
@[simp] theorem completeWith_busy (r : Word) (s : State) : (completeWith r s).busy = false := by
  rw [busy_def, completeWith_bit]; rfl
@[simp] theorem completeWith_rv (r : Word) (s : State) : (completeWith r s).rv = true := by
  rw [rv_def, completeWith_bit]; rfl
@[simp] theorem completeWith_seeded32 (r : Word) (s : State) : (completeWith r s).seeded32 = s.seeded32 := by
  rw [seeded32_def, completeWith_bit]; rfl
@[simp] theorem completeWith_seeded64 (r : Word) (s : State) : (completeWith r s).seeded64 = s.seeded64 := by
  rw [seeded64_def, completeWith_bit]; rfl

/-! ### Commands -/

/-- What a CMD write does: one of the three rejections, or acceptance (30_encoding.md R92). -/
theorem submitCommand_cases (w : Word) (s : State) :
    (s.busy = true ∧ submitCommand w s = raiseEvent .errOverrun w s) ∨
    (s.busy = false ∧ (∃ e, decode w = .error e) ∧ submitCommand w s = raiseEvent .errIllegal w s) ∨
    (∃ i, s.busy = false ∧ decode w = .ok i ∧ operandTooWide i s = true ∧
      submitCommand w s = raiseEvent .errOperand w s) ∨
    (∃ i, s.busy = false ∧ decode w = .ok i ∧ operandTooWide i s = false ∧
      submitCommand w s = acceptCommand i w s) := by
  unfold submitCommand
  cases hb : s.busy
  · cases hd : decode w with
    | error e => right; left; simp
    | ok i =>
      cases ho : operandTooWide i s
      · right; right; right; exact ⟨i, rfl, rfl, ho, by simp [ho]⟩
      · right; right; left; exact ⟨i, rfl, rfl, ho, by simp [ho]⟩
  · left; simp

/-- What acceptance does: the command in flight, with or without the warning. -/
theorem acceptCommand_cases (i : Instr) (w : Word) (s : State) :
    (usesUnseeded i s = true ∧ acceptCommand i w s = raiseEvent .warnUnseeded w (latchCommand w s)) ∨
    (usesUnseeded i s = false ∧ acceptCommand i w s = latchCommand w s) := by
  unfold acceptCommand
  cases usesUnseeded i s <;> simp

/-- The working values after acceptance are the ones the command starts with, over the latched state. -/
theorem latchCommand_inFlight {w : Word} {i : Instr} (s : State) (h : decode w = .ok i) :
    (latchCommand w s).inFlight = startFlight i { s with l0 := s.op0 } := by
  unfold latchCommand
  simp only [h]
  cases i <;> rfl

/-! ### The window -/

/-- What a legal read does: a free value or the window's value is logged, nothing else of the block changes. -/
theorem readLegal_cases (off : Fin 256) (s : State) :
    (readUnspecified off s = true ∧
      readLegal off s = logRead off 8 (Config.freeWord s.freeCount) { s with freeCount := s.freeCount + 1 }) ∨
    (readUnspecified off s = false ∧ readLegal off s = logRead off 8 (windowValue off s) s) := by
  unfold readLegal
  cases readUnspecified off s <;> simp

/-- What a legal write does (20_memory.md R68). -/
theorem writeLegal_cases (off : Fin 256) (v : Word) (s : State) :
    (off.val / 8 = 2 ∧ writeLegal off v s = clearEvents v s) ∨
    (off.val / 8 = 3 ∧ writeLegal off v s = submitCommand v s) ∨
    (off.val / 8 = 4 ∧ writeLegal off v s = { s with op0 := v }) ∨
    (off.val / 8 = 5 ∧ writeLegal off v s = { s with op1 := v }) ∨
    (off.val / 8 = 6 ∧ writeLegal off v s = { s with op2 := v }) ∨
    (off.val / 8 = 7 ∧ writeLegal off v s = { s with op3 := v }) ∨
    ((off.val / 8 < 2 ∨ 7 < off.val / 8) ∧ writeLegal off v s = s) := by
  unfold writeLegal regAt
  have h : off.val / 8 < 32 := by omega
  generalize off.val / 8 = k at h
  interval_cases k <;> simp

/-- What a host access does: a legal read, a legal write, or ErrAccess (20_memory.md R64). -/
theorem hostAccess_cases (off : Fin 256) (n : Nat) (d : Dir) (s : State) :
    (n = 8 ∧ off.val % 8 = 0 ∧ d = .read ∧ hostAccess off n d s = readLegal off s) ∨
    (∃ v, n = 8 ∧ off.val % 8 = 0 ∧ d = .write v ∧ hostAccess off n d s = writeLegal off v s) ∨
    ((n ≠ 8 ∨ off.val % 8 ≠ 0) ∧ d = .read ∧
      hostAccess off n d s = logRead off n 0#64 (raiseEvent .errAccess 0#64 s)) ∨
    (∃ v, (n ≠ 8 ∨ off.val % 8 ≠ 0) ∧ d = .write v ∧ hostAccess off n d s = raiseEvent .errAccess 0#64 s) := by
  unfold hostAccess legalAccess
  by_cases h : n = 8 ∧ off.val % 8 = 0
  · obtain ⟨rfl, h⟩ := h
    cases d <;> simp [h]
  · have h' : n ≠ 8 ∨ off.val % 8 ≠ 0 := by tauto
    have hf : (n == 8 && off.val % 8 == 0) = false := by
      rw [Bool.eq_false_iff]; intro hc; simp at hc; exact h hc
    cases d
    · right; right; left; simp [hf, h']
    · right; right; right; simp [hf, h']

theorem windowOffset_some {addr : Nat} {off : Fin 256} (h : windowOffset addr = some off) :
    addr = Config.pcgBase + off.val := by
  unfold windowOffset at h
  split at h
  · rename_i hc
    injection h with h
    subst h
    show addr = Config.pcgBase + (addr - Config.pcgBase)
    omega
  · cases h

theorem windowOffset_base (off : Fin 256) : windowOffset (Config.pcgBase + off.val) = some off := by
  unfold windowOffset
  have : Config.pcgBase ≤ Config.pcgBase + off.val ∧ Config.pcgBase + off.val < Config.pcgBase + 256 := by omega
  rw [dif_pos this]; simp

theorem windowOffset_none {addr : Nat} (h : addr < Config.pcgBase ∨ Config.pcgBase + 256 ≤ addr) :
    windowOffset addr = none := by
  unfold windowOffset
  rw [dif_neg]; omega

/-- What a bus access does: a host access at its window offset, or nothing to the block. -/
theorem busAccess_cases (addr n : Nat) (d : Dir) (s : State) :
    (∃ off, windowOffset addr = some off ∧ busAccess addr n d s = hostAccess off n d s) ∨
    (windowOffset addr = none ∧ busAccess addr n d s = s) := by
  unfold busAccess
  cases h : windowOffset addr with
  | none => right; simp
  | some off => left; exact ⟨off, rfl, rfl⟩

/-- What one round of POLL does: a read of STATUS, and another round after an engine turn while BUSY = 1. -/
theorem pollRound_cases (s : State) :
    (s.busy = false ∧ pollRound s = logRead 0x10 8 s.status s) ∨
    (s.busy = true ∧
      pollRound s = { logRead 0x10 8 s.status s with schedule := .engine :: .poll :: s.schedule }) := by
  unfold pollRound
  have h : hostAccess (regOffset .status) 8 .read s = logRead 0x10 8 s.status s := by
    obtain ⟨_, _, _, h⟩ | ⟨_, _, _, h, _⟩ | ⟨h, _⟩ | ⟨_, h, _⟩ :=
      hostAccess_cases (regOffset .status) 8 .read s
    · rw [h]; obtain ⟨h1, _⟩ | ⟨_, h2⟩ := readLegal_cases (regOffset .status) s
      · simp [readUnspecified, regAt, regOffset, unspecifiedWhileBusy] at h1
      · rw [h2]; rfl
    · cases h
    · simp [regOffset] at h
    · simp [regOffset] at h
  rw [h]
  cases hb : s.busy
  · left; simp
  · right; simp

end Sys2Proof.Machine
end

