-- ==== Sys2Proof/Laws/PerInstr.lean ====
section
/-! SUPPORT. Families of statements made command by command. -/

/-- What is said of each command as syntax: it is well formed, its command word's fields are well formed, and its eight
bytes decode to it. -/
def Sys2Proof.Laws.CommandWord.Statement (i : Sys2Proof.Instr) : Prop :=
  i.wellFormed = true ∧ (Sys2Proof.fieldsOfWord (Sys2Proof.encode i)).wellFormed = true ∧
  Sys2Proof.decodeBytes (Sys2Proof.encodeBytes i) = .ok i

namespace Sys2Proof.Laws.CommandWord

theorem clear32 : Statement .clear32 := by unfold Statement; decide
theorem seed32 : Statement .seed32 := by unfold Statement; decide
theorem random32 : Statement .random32 := by unfold Statement; decide
theorem bounded32 : Statement .bounded32 := by unfold Statement; decide
theorem advance32 : Statement .advance32 := by unfold Statement; decide
theorem retreat32 : Statement .retreat32 := by unfold Statement; decide
theorem clear64 : Statement .clear64 := by unfold Statement; decide
theorem seed64 : Statement .seed64 := by unfold Statement; decide
theorem random64 : Statement .random64 := by unfold Statement; decide
theorem bounded64 : Statement .bounded64 := by unfold Statement; decide
theorem advance64 : Statement .advance64 := by unfold Statement; decide
theorem retreat64 : Statement .retreat64 := by unfold Statement; decide

end Sys2Proof.Laws.CommandWord
end

