-- ==== Sys2Proof/Laws/Step.lean ====
section
/-! SUPPORT. What one step can do (the inversion lemma of step), the form of each turn, and runs of several steps. -/

namespace Sys2Proof.Machine

/-- The state after its next turn has been taken off the schedule. -/
def State.popped (s : State) : State := { s with schedule := s.schedule.tail }

@[simp] theorem State.popped_busy (s : State) : s.popped.busy = s.busy := rfl
@[simp] theorem State.popped_lcmd (s : State) : s.popped.lcmd = s.lcmd := rfl

theorem State.popped_nil {s : State} (h : s.schedule = []) : s.popped = s := by
  unfold State.popped
  rw [h, List.tail_nil, ← h]

theorem State.popped_cons {s : State} {t : Turn} {rest : List Turn} (h : s.schedule = t :: rest) :
    s.popped = { s with schedule := rest } := by
  unfold State.popped
  rw [h, List.tail_cons]

/-! ### The form of each turn -/

theorem engineTurn_busy {s : State} {i : Instr} (hb : s.busy = true) (hd : decode s.lcmd = .ok i) :
    engineTurn s = exec i s := by
  unfold engineTurn
  rw [if_pos hb, hd]

theorem engineTurn_idle {s : State} (hb : s.busy = false) : engineTurn s = .next s := by
  unfold engineTurn
  rw [hb]; rfl

theorem step_nil {s : State} (h : s.schedule = []) : step s = engineTurn s := by
  unfold step; rw [h]

theorem step_engine {s : State} {rest : List Turn} (h : s.schedule = .engine :: rest) :
    step s = engineTurn { s with schedule := rest } := by
  unfold step; rw [h]

theorem step_access {s : State} {a : Access} {rest : List Turn} (h : s.schedule = .access a :: rest) :
    step s = .next (hostAccess a.off a.size a.dir { s with schedule := rest }) := by
  unfold step; rw [h]

theorem step_bus {s : State} {addr n : Nat} {d : Dir} {rest : List Turn} (h : s.schedule = .bus addr n d :: rest) :
    step s = .next (busAccess addr n d { s with schedule := rest }) := by
  unfold step; rw [h]

theorem step_poll {s : State} {rest : List Turn} (h : s.schedule = .poll :: rest) :
    step s = .next (pollRound { s with schedule := rest }) := by
  unfold step; rw [h]

theorem step_reset {s : State} {rest : List Turn} (h : s.schedule = .reset :: rest) :
    step s = .next (resetBlock { s with schedule := rest }) := by
  unfold step; rw [h]

/-! ### Inversion -/

/-- What a step that answers a next state did: it ran the command in flight, passed an idle engine's turn, performed a host
access, performed a round of POLL, left an access outside the window to the platform, or reset the block. -/
theorem step_cases {s s' : State} (h : step s = .next s') :
    (∃ i, s.engineNow = some i ∧ s.accessNow = none ∧ s.resetNow = false ∧ s.busy = true ∧
      decode s.lcmd = .ok i ∧ exec i s.popped = .next s') ∨
    (s.engineNow = none ∧ s.accessNow = none ∧ s.resetNow = false ∧ s.busy = false ∧ s' = s.popped) ∨
    (∃ a, s.engineNow = none ∧ s.accessNow = some a ∧ s.resetNow = false ∧
      s' = hostAccess a.off a.size a.dir s.popped) ∨
    (∃ rest, s.schedule = .poll :: rest ∧ s.engineNow = none ∧
      s.accessNow = some { off := 0x10, size := 8, dir := .read } ∧ s.resetNow = false ∧ s' = pollRound s.popped) ∨
    (s.engineNow = none ∧ s.accessNow = none ∧ s.resetNow = false ∧ s' = s.popped) ∨
    (s.engineNow = none ∧ s.accessNow = none ∧ s.resetNow = true ∧ s' = resetBlock s.popped) := by
  have engine : ∀ {t : State}, t.busy = s.busy → t.lcmd = s.lcmd → engineTurn t = .next s' →
      (∃ i, s.busy = true ∧ decode s.lcmd = .ok i ∧ exec i t = .next s') ∨ (s.busy = false ∧ s' = t) := by
    intro t hb hl ht
    unfold engineTurn at ht
    rw [hb, hl] at ht
    cases hbs : s.busy
    · rw [hbs] at ht; right; exact ⟨rfl, by simpa using ht.symm⟩
    · rw [hbs, if_pos rfl] at ht
      cases hd : decode s.lcmd with
      | ok i => rw [hd] at ht; left; exact ⟨i, rfl, rfl, ht⟩
      | error e => rw [hd] at ht; cases ht
  cases hs : s.schedule with
  | nil =>
    rw [step_nil hs] at h
    obtain ⟨i, hb, hd, hx⟩ | ⟨hb, hx⟩ := engine rfl rfl h
    · left; exact ⟨i, by simp [State.engineNow, hs, hb, hd], by simp [State.accessNow, hs],
        by simp [State.resetNow, hs], hb, hd, by rw [State.popped_nil hs]; exact hx⟩
    · right; left; exact ⟨by simp [State.engineNow, hs, hb], by simp [State.accessNow, hs],
        by simp [State.resetNow, hs], hb, by rw [State.popped_nil hs]; exact hx⟩
  | cons t rest =>
    rw [State.popped_cons hs]
    cases t with
    | engine =>
      rw [step_engine hs] at h
      obtain ⟨i, hb, hd, hx⟩ | ⟨hb, hx⟩ := engine (t := { s with schedule := rest }) rfl rfl h
      · left; exact ⟨i, by simp [State.engineNow, hs, hb, hd], by simp [State.accessNow, hs],
          by simp [State.resetNow, hs], hb, hd, hx⟩
      · right; left; exact ⟨by simp [State.engineNow, hs, hb], by simp [State.accessNow, hs],
          by simp [State.resetNow, hs], hb, hx⟩
    | access a =>
      rw [step_access hs] at h
      right; right; left
      exact ⟨a, by simp [State.engineNow, hs], by simp [State.accessNow, hs], by simp [State.resetNow, hs],
        by simpa using h.symm⟩
    | bus addr n d =>
      rw [step_bus hs] at h
      injection h with h
      obtain ⟨off, ho, hx⟩ | ⟨ho, hx⟩ := busAccess_cases addr n d { s with schedule := rest }
      · right; right; left
        exact ⟨{ off := off, size := n, dir := d }, by simp [State.engineNow, hs],
          by simp [State.accessNow, hs, ho], by simp [State.resetNow, hs], by rw [← h, hx]⟩
      · right; right; right; right; left
        exact ⟨by simp [State.engineNow, hs], by simp [State.accessNow, hs, ho], by simp [State.resetNow, hs],
          by rw [← h, hx]⟩
    | poll =>
      rw [step_poll hs] at h
      right; right; right; left
      exact ⟨rest, rfl, by simp [State.engineNow, hs], by simp [State.accessNow, hs],
        by simp [State.resetNow, hs], by simpa using h.symm⟩
    | reset =>
      rw [step_reset hs] at h
      right; right; right; right; right
      exact ⟨by simp [State.engineNow, hs], by simp [State.accessNow, hs], by simp [State.resetNow, hs],
        by simpa using h.symm⟩

/-! ### What the observers of the next step say of each case -/

theorem writeNow_of_no_access {s : State} (h : s.accessNow = none) (off : Fin 256) : s.writeNow off = none := by
  unfold State.writeNow; rw [h]

theorem writeNow_of_read {s : State} {o : Fin 256} {n : Nat}
    (h : s.accessNow = some { off := o, size := n, dir := .read }) (off : Fin 256) : s.writeNow off = none := by
  unfold State.writeNow; rw [h]

theorem writeNow_of_write {s : State} {o : Fin 256} {n : Nat} {v : Word}
    (h : s.accessNow = some { off := o, size := n, dir := .write v }) (off : Fin 256) :
    s.writeNow off = if o = off ∧ n = 8 ∧ off.val % 8 = 0 then some v else none := by
  unfold State.writeNow; rw [h]

/-- A step whose access writes a register legally is that write. -/
theorem step_of_writeNow {s : State} {off : Fin 256} {v : Word} (h : s.writeNow off = some v) :
    off.val % 8 = 0 ∧ s.accessNow = some { off := off, size := 8, dir := .write v } ∧
      step s = .next (writeLegal off v s.popped) := by
  have key : ∃ o n, s.accessNow = some { off := o, size := n, dir := .write v } ∧ o = off ∧ n = 8 ∧
      off.val % 8 = 0 := by
    cases ha : s.accessNow with
    | none => rw [writeNow_of_no_access ha] at h; cases h
    | some a =>
      obtain ⟨o, n, d⟩ := a
      cases d with
      | read => rw [writeNow_of_read ha] at h; cases h
      | write w =>
        rw [writeNow_of_write ha] at h
        split at h
        · rename_i hc; injection h with h; subst h; exact ⟨o, n, rfl, hc⟩
        · cases h
  obtain ⟨o, n, ha, rfl, rfl, h8⟩ := key
  have hw : ∀ t, hostAccess o 8 (.write v) t = writeLegal o v t := by
    intro t; unfold hostAccess legalAccess; simp [h8]
  refine ⟨h8, ha, ?_⟩
  cases hs : s.schedule with
  | nil => simp [State.accessNow, hs] at ha
  | cons t rest =>
    rw [State.popped_cons hs]
    cases t with
    | engine => simp [State.accessNow, hs] at ha
    | access a =>
      simp only [State.accessNow, hs] at ha; injection ha with ha; subst ha
      rw [step_access hs, hw]
    | bus addr m d =>
      rw [step_bus hs]
      obtain ⟨off', ho, hx⟩ | ⟨ho, _⟩ := busAccess_cases addr m d { s with schedule := rest }
      · have ha' : s.accessNow = some { off := off', size := m, dir := d } := by simp [State.accessNow, hs, ho]
        rw [ha'] at ha
        simp only [Option.some.injEq, Access.mk.injEq] at ha
        obtain ⟨rfl, rfl, rfl⟩ := ha
        rw [hx, hw]
      · simp [State.accessNow, hs, ho] at ha
    | poll => simp [State.accessNow, hs] at ha
    | reset => simp [State.accessNow, hs] at ha

/-- A legal read changes only what the host has read, the count of free values and the schedule. -/
theorem readLegal_block (off : Fin 256) (s : State) :
    ∃ rs fc, readLegal off s = { s with reads := rs, freeCount := fc } := by
  obtain ⟨_, h⟩ | ⟨_, h⟩ := readLegal_cases off s
  · exact ⟨_, _, h⟩
  · exact ⟨_, _, h⟩

/-- `step_cases` with the host's accesses sorted by what they do to the block: a command's engine step, nothing, a legal
read (POLL's among them), a legal write, an access that is not legal, reset. -/
theorem step_effect {s s' : State} (h : step s = .next s') :
    (∃ i, s.engineNow = some i ∧ s.accessNow = none ∧ s.resetNow = false ∧ s.busy = true ∧
      decode s.lcmd = .ok i ∧ exec i s.popped = .next s') ∨
    (s.engineNow = none ∧ s.accessNow = none ∧ s.resetNow = false ∧ s' = s.popped) ∨
    (∃ off, s.engineNow = none ∧ s.accessNow = some { off := off, size := 8, dir := .read } ∧
      off.val % 8 = 0 ∧ s.resetNow = false ∧
      ∃ ts rs fc, s' = { s with schedule := ts, reads := rs, freeCount := fc }) ∨
    (∃ off v, s.engineNow = none ∧ s.accessNow = some { off := off, size := 8, dir := .write v } ∧
      off.val % 8 = 0 ∧ s.resetNow = false ∧ s' = writeLegal off v s.popped) ∨
    (∃ a, s.engineNow = none ∧ s.accessNow = some a ∧ (a.size ≠ 8 ∨ a.off.val % 8 ≠ 0) ∧ s.resetNow = false ∧
      ∃ rs, s' = { raiseEvent .errAccess 0#64 s.popped with reads := rs }) ∨
    (s.engineNow = none ∧ s.accessNow = none ∧ s.resetNow = true ∧ s' = resetBlock s.popped) := by
  obtain hc | ⟨h1, h2, h3, _, h5⟩ | ⟨⟨o, n, d⟩, h1, h2, h3, h4⟩ | ⟨rest, hs, h1, h2, h3, h4⟩ | hc | hc := step_cases h
  · exact .inl hc
  · exact .inr (.inl ⟨h1, h2, h3, h5⟩)
  · obtain ⟨rfl, h8, rfl, hx⟩ | ⟨v, rfl, h8, rfl, hx⟩ | ⟨hn, _, hx⟩ | ⟨v, hn, _, hx⟩ :=
      hostAccess_cases o n d s.popped
    · obtain ⟨rs, fc, hr⟩ := readLegal_block o s.popped
      refine .inr (.inr (.inl ⟨o, h1, h2, h8, h3, s.schedule.tail, rs, fc, ?_⟩))
      rw [h4]; exact hx.trans hr
    · exact .inr (.inr (.inr (.inl ⟨o, v, h1, h2, h8, h3, h4.trans hx⟩)))
    · exact .inr (.inr (.inr (.inr (.inl ⟨_, h1, h2, hn, h3, _, h4.trans hx⟩))))
    · exact .inr (.inr (.inr (.inr (.inl ⟨_, h1, h2, hn, h3, _, h4.trans hx⟩))))
  · refine .inr (.inr (.inl ⟨0x10, h1, h2, by decide, h3, ?_⟩))
    obtain ⟨_, hx⟩ | ⟨_, hx⟩ := pollRound_cases s.popped
    · exact ⟨_, _, _, h4.trans hx⟩
    · exact ⟨_, _, _, h4.trans hx⟩
  · exact .inr (.inl hc)
  · exact .inr (.inr (.inr (.inr (.inr hc))))

/-- Every command's engine step answers a next state. -/
theorem exec_next (i : Instr) (s : State) : ∃ t, exec i s = .next t := by
  cases i
  case bounded32 =>
    show ∃ t, execBounded32 s = .next t
    unfold execBounded32
    split
    · exact ⟨_, rfl⟩
    · split
      dsimp only
      split <;> exact ⟨_, rfl⟩
  case bounded64 =>
    show ∃ t, execBounded64 s = .next t
    unfold execBounded64
    split
    · exact ⟨_, rfl⟩
    · split
      dsimp only
      split <;> exact ⟨_, rfl⟩
  all_goals exact ⟨_, rfl⟩

/-! ### Runs -/

@[simp] theorem run_zero (s : State) : Host.Core.run core 0 s = .next s := rfl

theorem machine_run_succ (M : Host.Core) (n : Nat) (s : M.State) :
    M.run (n + 1) s =
      match M.step s with
      | .next t => M.run n t
      | .fault r => .fault r
      | .refused r => .refused r := rfl

theorem run_succ_of_step {s t : State} (n : Nat) (h : step s = .next t) :
    Host.Core.run core (n + 1) s = Host.Core.run core n t := by
  have hc : core.step s = .next t := h
  have hr := machine_run_succ core n s
  rw [hc] at hr
  exact hr

/-- A run of n + 1 steps that ends in a state is one step and a run of n. -/
theorem run_succ_inv {s u : State} {n : Nat} (h : Host.Core.run core (n + 1) s = .next u) :
    ∃ t, step s = .next t ∧ Host.Core.run core n t = .next u := by
  have hr := machine_run_succ core n s
  have hc : core.step s = step s := rfl
  rw [hc] at hr
  have h' := hr.symm.trans h
  cases hs : step s with
  | next t => rw [hs] at h'; exact ⟨t, rfl, h'⟩
  | fault r => rw [hs] at h'; cases h'
  | refused r => rw [hs] at h'; cases h'

theorem commandTurns_cons (i : Instr) (rest : List Turn) :
    commandTurns i ++ rest = Stmt.turn (.cmd i) :: .engine :: rest := rfl

/-- The CMD write of a command on an idle block, where its operand is in range, accepts it. -/
theorem step_command {s : State} {i : Instr} {rest : List Turn} (hd : decode (encode i) = .ok i)
    (hs : s.schedule = Stmt.turn (.cmd i) :: rest) (hb : s.busy = false) (ho : operandTooWide i s = false) :
    step s = .next (acceptCommand i (encode i) { s with schedule := rest }) := by
  rw [step_access hs]
  have hh : ∀ t, hostAccess (regOffset .cmd) 8 (.write (encode i)) t = submitCommand (encode i) t := by
    intro t; unfold hostAccess; rw [if_pos (by decide)]; rfl
  have hb' : ({ s with schedule := rest } : State).busy = false := hb
  have ho' : operandTooWide i { s with schedule := rest } = false := by rw [← ho]; cases i <;> rfl
  simp only [hh]
  unfold submitCommand
  rw [hb', hd]
  simp [ho']

/-- A command's CMD write and engine turn on an idle block are its acceptance and `exec` of it. -/
theorem run_commandTurns {s t : State} {i : Instr} {rest : List Turn} (k : Nat) (hd : decode (encode i) = .ok i)
    (hs : s.schedule = commandTurns i ++ rest) (hb : s.busy = false) (ho : operandTooWide i s = false)
    (hx : exec i (acceptCommand i (encode i) { s with schedule := rest }) = .next t) :
    Host.Core.run core (k + 2) s = Host.Core.run core k t := by
  rw [commandTurns_cons] at hs
  refine (run_succ_of_step (k + 1) (step_command hd hs hb ho)).trans (run_succ_of_step k ?_)
  have hu : usesUnseeded i { s with schedule := .engine :: rest } = usesUnseeded i { s with schedule := rest } := by
    cases i <;> rfl
  have ha : acceptCommand i (encode i) { s with schedule := .engine :: rest } =
      { acceptCommand i (encode i) { s with schedule := rest } with schedule := .engine :: rest } := by
    unfold acceptCommand latchCommand
    rw [hu, hd]
    cases usesUnseeded i { s with schedule := rest } <;> cases i <;> rfl
  have hsch : (acceptCommand i (encode i) { s with schedule := rest }).schedule = rest := by
    obtain ⟨_, h⟩ | ⟨_, h⟩ := acceptCommand_cases i (encode i) { s with schedule := rest } <;> rw [h] <;> rfl
  have hbusy : (acceptCommand i (encode i) { s with schedule := rest }).busy = true := by
    obtain ⟨_, h⟩ | ⟨_, h⟩ := acceptCommand_cases i (encode i) { s with schedule := rest } <;> rw [h]
    · rw [raiseEvent_busy]; exact latchCommand_busy _ _
    · exact latchCommand_busy _ _
  have hl : (acceptCommand i (encode i) { s with schedule := rest }).lcmd = encode i := by
    obtain ⟨_, h⟩ | ⟨_, h⟩ := acceptCommand_cases i (encode i) { s with schedule := rest } <;> rw [h] <;> rfl
  rw [ha, step_engine (rest := rest) rfl]
  have he : ∀ u : State, u.schedule = rest → ({ { u with schedule := .engine :: rest } with schedule := rest } : State) = u := by
    rintro u rfl; rfl
  rw [he _ hsch, engineTurn_busy hbusy (by rw [hl]; exact hd), hx]

/-- An invariant of the step holds along every run. -/
theorem run_induction {P : State → Prop} (hP : ∀ s t, P s → step s = .next t → P t) :
    ∀ (n : Nat) (s t : State), P s → Host.Core.run core n s = .next t → P t := by
  intro n
  induction n with
  | zero => intro s t hs h; injection h with h; exact h ▸ hs
  | succ n ih =>
    intro s t hs h
    obtain ⟨u, hu, hr⟩ := run_succ_inv h
    exact ih u t (hP s u hs hu) hr

end Sys2Proof.Machine
end

