-- ==== Sys2Proof/Tests/Slice0.lean ====
section
/-! SUPPORT. Tests. The expected values come from the spec: its encoding table (30_encoding.md R84), the example each rule
gives, and the vectors of 95_test_vectors.md, named in each docstring. The last part shows, for each statement of
Certificates/Slice0/Obligations.lean that has hypotheses, concrete values that meet them. -/

namespace Sys2Proof.Tests

open Sys2Proof Sys2Proof.Machine

/-! ### Small states -/

/-- `s` with the given turns to come. -/
def sched (ts : List Turn) (s : State) : State := { s with schedule := ts }

/-- A legal write, a legal read. -/
def wr (off : Fin 256) (v : Word) : Turn := .access { off := off, size := 8, dir := .write v }
def rd (off : Fin 256) : Turn := .access { off := off, size := 8, dir := .read }

/-- G32 after SEED32 (1, 1), as R106's example gives it. -/
def seeded32 : State :=
  { State.reset with g32 := { state := 0x6147D0B53255FCB7#64, inc := 3#64 }, status := 0x4#64 }

/-- G64 after SEED64 (1, 1, 1, 2), as R141's example gives it. -/
def seeded64 : State :=
  { State.reset with
    lo := { state := 0x6147D0B53255FCB7#64, inc := 3#64 }
    hi := { state := 0x11EBB90FCB80FB13#64, inc := 5#64 }
    status := 0x8#64 }

/-- `s` with OP0 = `v`, and the command in flight. -/
def flying (i : Instr) (v : Word) (s : State) : State := latchCommand (encode i) { s with op0 := v }

/-- The increment of R105 step 1. -/
def incOf (q : Word) : Word := (q <<< 1) ||| 1#64

/-- The state after a step, or the same state where the step stops. -/
def stepped (s : State) : State :=
  match step s with
  | .next t => t
  | .fault _ => s
  | .refused _ => s

/-- The state after the engine step of a command. -/
def ran (i : Instr) (s : State) : State :=
  match exec i s with
  | .next t => t
  | .fault _ => s
  | .refused _ => s

/-! ### Well-formedness -/

theorem test_wellFormed_random64 : CmdFields.wellFormed { func := 3#4, w := 1#1, rsv := 0#59 } = true := by decide
theorem test_wellFormed_refuses_reserved_bits :
    CmdFields.wellFormed { func := 3#4, w := 0#1, rsv := 1#59 } = false := by decide
theorem test_wellFormed_refuses_func_zero :
    CmdFields.wellFormed { func := 0#4, w := 0#1, rsv := 0#59 } = false := by decide
theorem test_wellFormed_refuses_func_seven :
    CmdFields.wellFormed { func := 7#4, w := 1#1, rsv := 0#59 } = false := by decide
theorem test_wellFormed_every_command :
    Instr.wellFormed .clear32 = true ∧ Instr.wellFormed .seed32 = true ∧ Instr.wellFormed .random32 = true ∧
    Instr.wellFormed .bounded32 = true ∧ Instr.wellFormed .advance32 = true ∧ Instr.wellFormed .retreat32 = true ∧
    Instr.wellFormed .clear64 = true ∧ Instr.wellFormed .seed64 = true ∧ Instr.wellFormed .random64 = true ∧
    Instr.wellFormed .bounded64 = true ∧ Instr.wellFormed .advance64 = true ∧ Instr.wellFormed .retreat64 = true := by
  decide

/-! ### Decoding: the words of R81 to R84, RSV, W and FUNC written apart -/

theorem test_decode_clear32 : decode (0#59 ++ 0b0#1 ++ 0b0001#4) = .ok .clear32 := by decide
theorem test_decode_seed32 : decode (0#59 ++ 0b0#1 ++ 0b0010#4) = .ok .seed32 := by decide
theorem test_decode_random32 : decode (0#59 ++ 0b0#1 ++ 0b0011#4) = .ok .random32 := by decide
theorem test_decode_bounded32 : decode (0#59 ++ 0b0#1 ++ 0b0100#4) = .ok .bounded32 := by decide
theorem test_decode_advance32 : decode (0#59 ++ 0b0#1 ++ 0b0101#4) = .ok .advance32 := by decide
theorem test_decode_retreat32 : decode (0#59 ++ 0b0#1 ++ 0b0110#4) = .ok .retreat32 := by decide
theorem test_decode_clear64 : decode (0#59 ++ 0b1#1 ++ 0b0001#4) = .ok .clear64 := by decide
theorem test_decode_seed64 : decode (0#59 ++ 0b1#1 ++ 0b0010#4) = .ok .seed64 := by decide
theorem test_decode_random64 : decode (0#59 ++ 0b1#1 ++ 0b0011#4) = .ok .random64 := by decide
theorem test_decode_bounded64 : decode (0#59 ++ 0b1#1 ++ 0b0100#4) = .ok .bounded64 := by decide
theorem test_decode_advance64 : decode (0#59 ++ 0b1#1 ++ 0b0101#4) = .ok .advance64 := by decide
theorem test_decode_retreat64 : decode (0#59 ++ 0b1#1 ++ 0b0110#4) = .ok .retreat64 := by decide

/-- V-E-9, V-E-10. -/
theorem test_decode_illegal :
    decode 0x10#64 = .error .funcZero ∧ decode 0x07#64 = .error .funcReserved ∧
    decode 0x20#64 = .error .reservedBits := by decide

/-- R80: one command word, eight bytes, least significant first (20_memory.md R65). -/
theorem test_decodeBytes :
    decodeBytes [0x14, 0, 0, 0, 0, 0, 0, 0] = .ok .bounded64 ∧
    decodeBytes [0, 0, 0, 0, 0, 0, 0, 0x14] = .error .reservedBits ∧
    decodeBytes [0x14, 0, 0, 0] = .error .notEightBytes := by decide

theorem test_decodeTableWord :
    decodeTableWord 64 0x16 = some .retreat64 ∧ decodeTableWord 64 0x26 = none := by decide

theorem test_withFetchWord_runs : (stepped (seeded32.withFetchWord 64 0x3)).res = 3380776849#64 := by decide

/-! ### The datapath (95_test_vectors.md section 2.1) -/

theorem test_lcgStep_wraps : lcgStep 0xFFFFFFFFFFFFFFFF#64 1#64 = 0xA7AE0BD2B36A80D4#64 := by decide
theorem test_xshRr32_rotates_by_31 : xshRr32 0xFEDCBA9876543210#64 = 0xB7214BD7#32 := by decide
theorem test_rotr32 : rotr32 0xDEADBEEF#32 4 = 0xFDEADBEE#32 ∧ rotr32 0x12345678#32 0 = 0x12345678#32 := by decide
theorem test_threshold : threshold32 1000#32 = 296#32 ∧ threshold64 1000#64 = 616#64 := by decide
theorem test_jump_1000 :
    jump 0x0123456789ABCDEF#64 1000#64 0xDA3E39CB94B95BDB#64 = 0xA4F688F22D1946F7#64 := by decide
set_option maxRecDepth 8192 in
theorem test_jump_accumulators :
    ((JumpRegs.load 0xFFFFFFFFFFFFFFFF#64 3#64).run 64).accMult = 0xC097EF87329E28A5#64 ∧
    ((JumpRegs.load 0xFFFFFFFFFFFFFFFF#64 3#64).run 64).accPlus = 0xBE38316A68258611#64 := by decide
theorem test_distinctSeq2_bit63 : distinctSeq2 5#64 0x8000000000000005#64 = 0x7FFFFFFFFFFFFFFA#64 := by decide

/-! ### Commands: one engine step each -/

/-- 41_pcg32.md R121's example; RES is kept. -/
theorem test_clear32 :
    (ran .clear32 { seeded32 with res := 9#64 }).g32 = { state := 0#64, inc := 0#64 } ∧
    (ran .clear32 { seeded32 with res := 9#64 }).res = 9#64 := by decide
/-- V-CL32-1. -/
theorem test_clear32_status : (ran .clear32 (flying .clear32 0#64 seeded32)).status = 0#64 := by decide
/-- R122's example. -/
theorem test_seed32 :
    (ran .seed32 { State.reset with l0 := 1#64, l1 := 1#64 }).g32 =
      { state := 0x6147D0B53255FCB7#64, inc := 3#64 } := by decide
/-- Section 2.1, seeds (0, 2^63): bit 63 of the sequence seed is discarded. -/
theorem test_seed32_bit63 :
    (ran .seed32 { State.reset with l1 := 0x8000000000000000#64 }).g32 =
      { state := 0x5851F42D4C957F2E#64, inc := 1#64 } := by decide
/-- R123's example, a regression literal of the source. -/
theorem test_random32 :
    (ran .random32 seeded32).res = 3380776849#64 ∧ (ran .random32 seeded32).g32.state = 0xAA743F0FEBFF352E#64 := by
  decide
/-- V-R32-1, index 3. -/
theorem test_random32_index3 :
    (ran .random32 { seeded32 with g32 := { state := 0x5056CE610AA9FA68#64, inc := 3#64 } }).res = 2781001427#64 := by
  decide
/-- R124's example: bound 6. -/
theorem test_bounded32_accepts : (ran .bounded32 (flying .bounded32 6#64 seeded32)).res = 1#64 := by decide
/-- V-B32-11: the draw 361947764 is rejected, the command stays in flight and the lane as it was. -/
theorem test_bounded32_rejects :
    let s := flying .bounded32 0x80000001#64 { seeded32 with g32 := { state := 0xAA743F0FEBFF352E#64, inc := 3#64 } }
    (ran .bounded32 s).busy = true ∧ (ran .bounded32 s).g32.state = 0xAA743F0FEBFF352E#64 ∧
      (ran .bounded32 (ran .bounded32 s)).res = 1076242006#64 := by decide
/-- V-A32-2. -/
theorem test_advance32 : (ran .advance32 (flying .advance32 5#64 seeded32)).g32.state = 0x53851BCCC0C5AE32#64 := by
  decide
set_option maxRecDepth 8192 in
/-- V-A32-3. -/
theorem test_advance32_wraps :
    (ran .advance32 (flying .advance32 0xFFFFFFFFFFFFFFFF#64 seeded32)).g32.state = 4#64 := by decide
set_option maxRecDepth 8192 in
/-- V-A32-7. -/
theorem test_retreat32 : (ran .retreat32 (flying .retreat32 1#64 seeded32)).g32.state = 4#64 := by decide
set_option maxRecDepth 8192 in
/-- R126's example. -/
theorem test_retreat32_three :
    (ran .retreat32 (flying .retreat32 3#64
      { seeded32 with g32 := { state := 0x5056CE610AA9FA68#64, inc := 3#64 } })).g32.state =
        0x6147D0B53255FCB7#64 := by decide
/-- V-CL64-1. -/
theorem test_clear64 :
    (ran .clear64 (flying .clear64 0#64 seeded64)).lo = { state := 0#64, inc := 0#64 } ∧
    (ran .clear64 (flying .clear64 0#64 seeded64)).hi = { state := 0#64, inc := 0#64 } ∧
    (ran .clear64 (flying .clear64 0#64 seeded64)).status = 0#64 := by decide
/-- V-S64-1. -/
theorem test_seed64 :
    (ran .seed64 { State.reset with l0 := 1#64, l1 := 1#64, l2 := 1#64, l3 := 2#64 }).hi =
      { state := 0x11EBB90FCB80FB13#64, inc := 5#64 } := by decide
/-- V-S64-4: the sequence seeds collide in their low 63 bits. -/
theorem test_seed64_collision :
    let s := ran .seed64 { State.reset with l0 := 7#64, l1 := 7#64, l2 := 5#64, l3 := 0x8000000000000005#64 }
    s.lo = { state := 0x35C32B2F6282F135#64, inc := 0xB#64 } ∧
    s.hi = { state := 0x9EB82F4ACDAA0341#64, inc := 0xFFFFFFFFFFFFFFF5#64 } := by decide
/-- R142's example, a regression literal of the source. -/
theorem test_random64 : (ran .random64 seeded64).res = 1107300197865787281#64 := by decide
/-- V-R64-2. -/
theorem test_random64_unseeded :
    (ran .random64 State.reset).res = 0#64 ∧ (ran .random64 State.reset).hi = { state := 0#64, inc := 0#64 } := by
  decide
/-- V-B64-5. -/
theorem test_bounded64_accepts : (ran .bounded64 (flying .bounded64 1000#64 seeded64)).res = 281#64 := by decide
/-- R143's example: the first draw is below the threshold. -/
theorem test_bounded64_rejects :
    (ran .bounded64 (flying .bounded64 0x8000000000000001#64 seeded64)).busy = true ∧
    (ran .bounded64 (flying .bounded64 0x8000000000000001#64 seeded64)).lo = seeded64.lo := by decide
/-- R144's example: after ADVANCE64 3, RANDOM64 gives the draw at index 3. -/
theorem test_advance64 :
    (ran .random64 (ran .advance64 (flying .advance64 3#64 seeded64))).res = 8366720510138169043#64 := by decide
set_option maxRecDepth 8192 in
/-- R145's example. -/
theorem test_retreat64 :
    (ran .retreat64 (flying .retreat64 1#64 seeded64)).lo.state = 4#64 ∧
    (ran .retreat64 (flying .retreat64 1#64 seeded64)).hi.state = 6#64 := by decide

/-! ### Accesses -/

/-- V-B32-12. -/
theorem test_cmd_write_wide_bound :
    let s := stepped (sched [wr 0x18 4#64] { seeded32 with op0 := 0x0000000100000006#64 })
    s.status = 0x404#64 ∧ s.errinfo = 4#64 ∧ s.g32 = seeded32.g32 := by decide
/-- V-B32-14: BOUNDED32 3 from reset: accepted, with the warning. -/
theorem test_cmd_write_unseeded :
    (stepped (sched [wr 0x18 4#64] { State.reset with op0 := 3#64 })).status = 0x1001#64 := by decide
/-- 30_encoding.md R95. -/
theorem test_pseudo_bounded32 :
    Pseudo.turns (.bounded32 6#64) = [wr 0x20 6#64, wr 0x18 0x4#64, .poll, rd 0x40] := by decide
/-- V-E-12: the overrun check comes first. -/
theorem test_cmd_write_overrun :
    let s := stepped (sched [wr 0x18 7#64] { State.reset with status := 0x1001#64 })
    s.status = 0x1201#64 ∧ s.errinfo = 7#64 := by decide
/-- V-E-15: bits 0 to 3 are not writable. -/
theorem test_status_write :
    (stepped (sched [wr 0x10 0xFFFFFFFFFFFFFFFF#64] { State.reset with status := 0x1F06#64 })).status = 6#64 := by decide
/-- 10_state.md R32: MULT. -/
theorem test_read_mult : ((stepped (sched [rd 0x08] State.reset)).reads.map HostRead.value) = [0x5851F42D4C957F2D#64] := by
  decide

/-! ### Witnesses: states of the invariant -/

/-- The engine idle: after reset, and on a seeded context. -/
theorem reset_inv : State.reset.Inv where
  reserved := by decide
  unseeded32 := by decide
  seeded32 := by decide
  unseeded64 := by decide
  seeded64 := by decide
  idle := by decide
  inFlight := fun h => absurd h (by decide)
  noResult := by decide

theorem seeded32_inv : seeded32.Inv where
  reserved := by decide
  unseeded32 := by decide
  seeded32 := by decide
  unseeded64 := by decide
  seeded64 := by decide
  idle := by decide
  inFlight := fun h => absurd h (by decide)
  noResult := by decide

/-- RANDOM32 in flight on a seeded context. -/
theorem random32_inv : (flying .random32 0#64 seeded32).Inv where
  reserved := by decide
  unseeded32 := by decide
  seeded32 := by decide
  unseeded64 := by decide
  seeded64 := by decide
  idle := by decide
  inFlight := fun _ => ⟨.random32, by decide, rfl⟩
  noResult := by decide

/-- RANDOM64 in flight on a seeded context. -/
theorem random64_inv : (flying .random64 0#64 seeded64).Inv where
  reserved := by decide
  unseeded32 := by decide
  seeded32 := by decide
  unseeded64 := by decide
  seeded64 := by decide
  idle := by decide
  inFlight := fun _ => ⟨.random64, by decide, rfl⟩
  noResult := by decide

/-- ADVANCE32 5 in flight on a seeded context. -/
theorem advance32_inv : (flying .advance32 5#64 seeded32).Inv where
  reserved := by decide
  unseeded32 := by decide
  seeded32 := by decide
  unseeded64 := by decide
  seeded64 := by decide
  idle := by decide
  inFlight := fun _ => ⟨.advance32, by decide, rfl⟩
  noResult := by decide

/-- BOUNDED32 in flight, with the bound that a draw may be rejected for. -/
theorem bounded32_inv (s : State) (hs : s = State.reset ∨ s = seeded32) (b : Word) (hb : b = 3#64 ∨ b = 0x80000001#64) :
    (flying .bounded32 b s).Inv := by
  obtain rfl | rfl := hs <;> obtain rfl | rfl := hb <;>
  exact {
    reserved := by decide
    unseeded32 := by decide
    seeded32 := by decide
    unseeded64 := by decide
    seeded64 := by decide
    idle := by decide
    inFlight := fun _ => ⟨.bounded32, by decide, by decide, fun h => absurd h (by decide),
      fun _ => ⟨0, by decide, fun k hk => absurd hk (Nat.not_lt_zero k)⟩⟩
    noResult := by decide }

/-- BOUNDED64 in flight. -/
theorem bounded64_inv (s : State) (hs : s = State.reset ∨ s = seeded64) : (flying .bounded64 3#64 s).Inv := by
  obtain rfl | rfl := hs <;>
  exact {
    reserved := by decide
    unseeded32 := by decide
    seeded32 := by decide
    unseeded64 := by decide
    seeded64 := by decide
    idle := by decide
    inFlight := fun _ => ⟨.bounded64, by decide, fun h => absurd h (by decide),
      fun _ => ⟨0, by decide, fun k hk => absurd hk (Nat.not_lt_zero k)⟩⟩
    noResult := by decide }

/-- Every command in flight right after its acceptance from reset. -/
theorem flying_inv (i : Instr) : (flying i 0#64 State.reset).Inv := by
  cases i <;>
  exact {
    reserved := by decide
    unseeded32 := by decide
    seeded32 := by decide
    unseeded64 := by decide
    seeded64 := by decide
    idle := by decide
    inFlight := fun _ => ⟨_, rfl, by
      first | rfl | exact ⟨by decide, fun _ => rfl, fun h => absurd rfl h⟩ | exact ⟨fun _ => rfl, fun h => absurd rfl h⟩⟩
    noResult := by decide }

/-! ### Witnesses: one for each statement with hypotheses, named after it -/

/-- The first byte and the last bit of the last byte. -/
theorem test_witness_BytesOfARegisterAreLittleEndian :
    (0 < 8 ∧ 0 < 8) ∧ (7 < 8 ∧ 7 < 8) ∧ (byteOfWord 0x8000000000000000#64 7).getLsbD 7 = true := by decide

theorem test_witness_ResetAbortsTheCommandInFlight :
    (sched [.reset] (flying .bounded32 3#64 State.reset)).schedule = .reset :: [] ∧
    (sched [.reset] (flying .bounded32 3#64 State.reset)).busy = true := by decide

theorem test_witness_EveryStepKeepsTheInvariant :
    (flying .bounded32 3#64 State.reset).Inv ∧
    step (flying .bounded32 3#64 State.reset) = .next (stepped (flying .bounded32 3#64 State.reset)) :=
  ⟨bounded32_inv _ (.inl rfl) _ (.inl rfl), rfl⟩

theorem test_witness_NoRunStops : (flying .bounded32 3#64 State.reset).Inv :=
  bounded32_inv _ (.inl rfl) _ (.inl rfl)

theorem test_witness_StepRunsTheCommandInFlight :
    (flying .random32 0#64 seeded32).busy = true ∧ decode (flying .random32 0#64 seeded32).lcmd = .ok .random32 ∧
    (flying .random32 0#64 seeded32).schedule = [] ∧
    (sched [.engine] (flying .random32 0#64 seeded32)).schedule = .engine :: [] ∧
    seeded32.busy = false ∧ seeded32.schedule = [] ∧ (sched [.engine] seeded32).schedule = .engine :: [] := by decide

theorem test_witness_PlacedCommandRunsNext :
    0x16 < 2 ^ 64 ∧ decode (BitVec.ofNat 64 0x16) = .ok .retreat64 := by decide

/-- RES while busy and when idle; ERRINFO, between RES and the lane registers, while busy; the last lane register and the
reserved offset after it; and two reads in a row. -/
theorem test_witness_LegalReadReturnsTheRegisterAndChangesNothing :
    (sched [rd 0x40, rd 0x40] seeded32).schedule = rd 0x40 :: [rd 0x40] ∧ (0x40 : Fin 256).val % 8 = 0 ∧
    (tableUnspecified 0x40 && (flying .random32 0#64 seeded32).busy) = true ∧
    (tableUnspecified 0x40 && seeded32.busy) = false ∧
    (tableUnspecified 0x48 && (flying .random32 0#64 seeded32).busy) = false ∧
    (tableUnspecified 0x50 && (flying .random32 0#64 seeded32).busy) = true ∧
    (tableUnspecified 0x78 && (flying .random32 0#64 seeded32).busy) = true ∧
    (tableUnspecified 0x80 && (flying .random32 0#64 seeded32).busy) = false := by decide

/-- The first and the last reserved offset. -/
theorem test_witness_ReservedOffsetsReadZeroAndIgnoreWrites :
    ((0x80 : Fin 256).val % 8 = 0 ∧ 0x80 ≤ (0x80 : Fin 256).val ∧ (sched [rd 0x80] seeded32).schedule = rd 0x80 :: []) ∧
    ((0xF8 : Fin 256).val % 8 = 0 ∧ 0x80 ≤ (0xF8 : Fin 256).val ∧
      (sched [wr 0xF8 1#64] seeded32).schedule = wr 0xF8 1#64 :: []) := by decide

theorem test_witness_ReadOnlyRegistersIgnoreWrites :
    (sched [wr 0x00 1#64] seeded32).schedule = wr 0x00 1#64 :: [] ∧
    (sched [wr 0x78 1#64] seeded32).schedule = wr 0x78 1#64 :: [] := by decide

theorem test_witness_OperandRegistersHoldTheLastWrite :
    step (sched [wr 0x38 9#64] seeded32) = .next (stepped (sched [wr 0x38 9#64] seeded32)) ∧
    (sched [wr 0x38 9#64] seeded32).writeNow 0x38 = some 9#64 ∧
    (sched [wr 0x38 9#64] seeded32).writeNow 0x30 = none := ⟨rfl, by decide, by decide⟩

/-- A 4-byte write at CMD, an 8-byte read at the window's last byte, a read of no bytes. -/
theorem test_witness_IllegalAccessOnlySetsErrAccess :
    ((4 ≠ 8 ∨ (0x18 : Fin 256).val % 8 ≠ 0) ∧
      (sched [.access { off := 0x18, size := 4, dir := .write 3#64 }] seeded32).schedule =
        .access { off := 0x18, size := 4, dir := .write 3#64 } :: []) ∧
    ((8 ≠ 8 ∨ (0xFF : Fin 256).val % 8 ≠ 0) ∧
      (sched [.access { off := 0xFF, size := 8, dir := .read }] seeded32).schedule =
        .access { off := 0xFF, size := 8, dir := .read } :: []) ∧
    (0 ≠ 8 ∨ (0x10 : Fin 256).val % 8 ≠ 0) := by decide

/-- The window's last byte, and the first address after it. -/
theorem test_witness_BusAccessesAreDecodedAtTheBase :
    (sched [.bus (Config.pcgBase + (0xFF : Fin 256).val) 1 .read] seeded32).schedule =
      .bus (Config.pcgBase + (0xFF : Fin 256).val) 1 .read :: [] ∧
    (Config.pcgBase + 256 < Config.pcgBase ∨ Config.pcgBase + 256 ≤ Config.pcgBase + 256) ∧
    (sched [.bus (Config.pcgBase + 256) 8 .read] seeded32).schedule = .bus (Config.pcgBase + 256) 8 .read :: [] :=
  ⟨rfl, .inr (Nat.le_refl _), rfl⟩

theorem test_witness_PollRepeatsWhileBusy :
    ((sched [.poll] seeded32).schedule = .poll :: [] ∧ (sched [.poll] seeded32).status.getLsbD 0 = false) ∧
    ((sched [.poll] (flying .random32 0#64 seeded32)).schedule = .poll :: [] ∧
      (sched [.poll] (flying .random32 0#64 seeded32)).status.getLsbD 0 = true) := by decide

theorem test_witness_OverrunLosesTheWord :
    (sched [wr 0x18 7#64] (flying .random32 0#64 seeded32)).schedule = wr 0x18 7#64 :: [] ∧
    (sched [wr 0x18 7#64] (flying .random32 0#64 seeded32)).busy = true := by decide

/-- FUNC 0, FUNC 7, FUNC 15, and the lowest and the highest reserved bit. -/
theorem test_witness_IllegalWordExecutesNothing :
    (sched [wr 0x18 0x10#64] seeded32).schedule = wr 0x18 0x10#64 :: [] ∧ seeded32.busy = false ∧
    BitVec.extractLsb' 0 4 0x10#64 = 0#4 ∧ 7 ≤ (BitVec.extractLsb' 0 4 0x7#64).toNat ∧
    7 ≤ (BitVec.extractLsb' 0 4 0xF#64).toNat ∧ BitVec.extractLsb' 5 59 0x23#64 ≠ 0#59 ∧
    BitVec.extractLsb' 5 59 0x8000000000000003#64 ≠ 0#59 := by decide

/-- The least bound that is too wide. -/
theorem test_witness_WideBoundIsRejected :
    let s := sched [wr 0x18 0x4#64] { seeded32 with op0 := 0x100000000#64 }
    s.schedule = wr 0x18 0x4#64 :: [] ∧ s.busy = false ∧ s.op0.extractLsb' 32 32 ≠ 0#32 := by decide

/-- The widest bound that is accepted; an unseeded and a seeded context. -/
theorem test_witness_AcceptedCommandIsLatchedAndInFlight :
    (let s := sched [wr 0x18 0x4#64] { seeded32 with op0 := 0xFFFFFFFF#64 };
      s.schedule = wr 0x18 (tableCommandWord .bounded32) :: [] ∧ s.busy = false ∧
      s.op0.extractLsb' 32 32 = 0#32 ∧ s.unseededUse (tableCommandWord .bounded32) = false) ∧
    (let s := sched [wr 0x18 0x13#64] { seeded32 with op0 := 0x100000000#64 };
      s.schedule = wr 0x18 (tableCommandWord .random64) :: [] ∧ s.busy = false ∧
      s.unseededUse (tableCommandWord .random64) = true) := by decide

/-- An acceptance; an engine step; operand writes while busy. -/
theorem test_witness_CommandsReadOnlyTheLatches :
    ((sched [wr 0x18 0x5#64] seeded32).acceptNow = some 0x5#64 ∧
      step (sched [wr 0x18 0x5#64] seeded32) = .next (stepped (sched [wr 0x18 0x5#64] seeded32))) ∧
    exec .advance32 (flying .advance32 5#64 seeded32) = .next (ran .advance32 (flying .advance32 5#64 seeded32)) ∧
    (flying .advance32 5#64 seeded32).busy = true ∧
    (sched [wr 0x20 9#64] (flying .advance32 5#64 seeded32)).schedule = wr 0x20 9#64 :: [] ∧
    (sched [wr 0x38 9#64] (flying .advance32 5#64 seeded32)).schedule = wr 0x38 9#64 :: [] :=
  ⟨⟨by decide, rfl⟩, rfl, by decide, rfl, rfl⟩

/-- A step that raises each event, one that clears one, reset. -/
theorem test_witness_EventBitsChangeOnlyByEventClearAndReset :
    (step (sched [wr 0x18 7#64] seeded32) = .next (stepped (sched [wr 0x18 7#64] seeded32)) ∧
      (sched [wr 0x18 7#64] seeded32).eventNow .errIllegal = some 7#64) ∧
    (sched [wr 0x18 7#64] (flying .random32 0#64 seeded32)).eventNow .errOverrun = some 7#64 ∧
    (sched [wr 0x18 4#64] { seeded32 with op0 := 0x100000000#64 }).eventNow .errOperand = some 4#64 ∧
    ((sched [.access { off := 0x18, size := 4, dir := .read }] seeded32).eventNow .errAccess).isSome = true ∧
    (sched [wr 0x18 3#64] State.reset).eventNow .warnUnseeded = some 3#64 ∧
    (sched [wr 0x10 0x100#64] { seeded32 with status := 0x104#64 }).writeNow 0x10 = some 0x100#64 ∧
    (sched [.reset] seeded32).resetNow = true := ⟨⟨rfl, by decide⟩, by decide⟩

theorem test_witness_ErrinfoHoldsTheLastRecordedWord :
    (step (sched [wr 0x18 7#64] seeded32) = .next (stepped (sched [wr 0x18 7#64] seeded32)) ∧
      (sched [wr 0x18 7#64] seeded32).eventNow .errIllegal = some 7#64 ∧ Event.errIllegal ≠ .errAccess) ∧
    (step (sched [.reset] seeded32) = .next (stepped (sched [.reset] seeded32)) ∧
      (sched [.reset] seeded32).resetNow = true) ∧
    (step (sched [wr 0x20 7#64] seeded32) = .next (stepped (sched [wr 0x20 7#64] seeded32)) ∧
      (sched [wr 0x20 7#64] seeded32).resetNow = false ∧
      ∀ e : Event, e ≠ .errAccess → (sched [wr 0x20 7#64] seeded32).eventNow e = none) :=
  ⟨⟨rfl, by decide, by decide⟩, ⟨rfl, by decide⟩, rfl, by decide, fun e _ => by cases e <;> decide⟩

/-- A RANDOM32 accepted from reset raises the warning. -/
theorem test_witness_AtMostOneEventAStep :
    step (sched [wr 0x18 3#64] State.reset) = .next (stepped (sched [wr 0x18 3#64] State.reset)) ∧
    (sched [wr 0x18 3#64] State.reset).eventBit .warnUnseeded = false ∧
    (stepped (sched [wr 0x18 3#64] State.reset)).eventBit .warnUnseeded = true := ⟨rfl, by decide⟩

theorem test_witness_StatusWriteClearsOnlyTheOneBits :
    (sched [wr 0x10 0x100#64] { seeded32 with status := 0x1F06#64 }).schedule = wr 0x10 0x100#64 :: [] := by decide

/-- SEED32, CLEAR64, reset, and an engine step of another command. -/
theorem test_witness_SeededFlagsChangeOnlyBySeedClearAndReset :
    (step (flying .seed32 1#64 State.reset) = .next (stepped (flying .seed32 1#64 State.reset)) ∧
      (flying .seed32 1#64 State.reset).engineNow = some .seed32) ∧
    (flying .clear64 0#64 seeded64).engineNow = some .clear64 ∧
    (flying .random32 0#64 seeded32).engineNow = some .random32 ∧ (sched [.reset] seeded64).resetNow = true :=
  ⟨⟨rfl, by decide⟩, by decide⟩

/-- Reset; acceptance; a completion of RANDOM32, of RANDOM64, of BOUNDED32 with bound 3, of BOUNDED64 with bound 3 and of
each with bound 0, and one without a result; a rejected draw; a step of another kind. -/
theorem test_witness_RvTellsWhetherResHoldsAResult :
    ((flying .random32 0#64 seeded32).Inv ∧
      step (flying .random32 0#64 seeded32) = .next (stepped (flying .random32 0#64 seeded32)) ∧
      (flying .random32 0#64 seeded32).engineNow = some .random32 ∧
      (stepped (flying .random32 0#64 seeded32)).busy = false) ∧
    ((flying .random64 0#64 seeded64).Inv ∧ (flying .random64 0#64 seeded64).engineNow = some .random64 ∧
      (stepped (flying .random64 0#64 seeded64)).busy = false) ∧
    ((flying .bounded32 3#64 seeded32).Inv ∧ (flying .bounded32 3#64 seeded32).engineNow = some .bounded32 ∧
      (flying .bounded32 3#64 seeded32).bound32 ≠ 0#32 ∧
      (stepped (flying .bounded32 3#64 seeded32)).busy = false) ∧
    ((flying .bounded64 3#64 seeded64).Inv ∧ (flying .bounded64 3#64 seeded64).engineNow = some .bounded64 ∧
      (flying .bounded64 3#64 seeded64).bound64 ≠ 0#64 ∧
      (stepped (flying .bounded64 3#64 seeded64)).busy = false) ∧
    ((flying .bounded32 0#64 State.reset).Inv ∧ (flying .bounded32 0#64 State.reset).engineNow = some .bounded32 ∧
      (flying .bounded32 0#64 State.reset).bound32 = 0#32 ∧
      (stepped (flying .bounded32 0#64 State.reset)).busy = false) ∧
    ((flying .bounded64 0#64 State.reset).Inv ∧ (flying .bounded64 0#64 State.reset).engineNow = some .bounded64 ∧
      (flying .bounded64 0#64 State.reset).bound64 = 0#64 ∧
      (stepped (flying .bounded64 0#64 State.reset)).busy = false) ∧
    ((flying .advance32 5#64 seeded32).Inv ∧ (flying .advance32 5#64 seeded32).engineNow = some .advance32 ∧
      (stepped (flying .advance32 5#64 seeded32)).busy = false) ∧
    ((flying .bounded32 3#64 State.reset).Inv ∧ (flying .bounded32 3#64 State.reset).engineNow = some .bounded32 ∧
      (stepped (flying .bounded32 3#64 State.reset)).busy = true) ∧
    (sched [.reset] seeded32).resetNow = true ∧ (sched [wr 0x18 5#64] seeded32).acceptNow = some 5#64 ∧
    ((sched [rd 0x10] seeded32).resetNow = false ∧ (sched [rd 0x10] seeded32).acceptNow = none ∧
      (sched [rd 0x10] seeded32).engineNow = none) :=
  ⟨⟨random32_inv, rfl, by decide⟩, ⟨random64_inv, by decide⟩, ⟨bounded32_inv _ (.inr rfl) _ (.inl rfl), by decide⟩,
    ⟨bounded64_inv _ (.inr rfl), by decide⟩, ⟨flying_inv .bounded32, by decide⟩, ⟨flying_inv .bounded64, by decide⟩,
    ⟨advance32_inv, by decide⟩, ⟨bounded32_inv _ (.inl rfl) _ (.inl rfl), by decide⟩, by decide⟩

/-- As above; BOUNDED with bound 0, with an accepted draw and with a rejected one. -/
theorem test_witness_BusyRisesAtAcceptanceAndFallsAtCompletion :
    (step (flying .random32 0#64 seeded32) = .next (stepped (flying .random32 0#64 seeded32)) ∧
      (flying .random32 0#64 seeded32).engineNow = some .random32) ∧
    (sched [.reset] seeded32).resetNow = true ∧ (sched [wr 0x18 5#64] seeded32).acceptNow = some 5#64 ∧
    ((flying .bounded32 0#64 seeded32).engineNow = some .bounded32 ∧ (flying .bounded32 0#64 seeded32).bound32 = 0#32) ∧
    ((flying .bounded32 6#64 seeded32).engineNow = some .bounded32 ∧
      (flying .bounded32 6#64 seeded32).bounded32Work.1 ≤
        xshRr32 (flying .bounded32 6#64 seeded32).bounded32Work.2.2.state) ∧
    ((flying .bounded64 3#64 State.reset).engineNow = some .bounded64 ∧
      (draw64 (flying .bounded64 3#64 State.reset).bounded64Work.2.2.1
        (flying .bounded64 3#64 State.reset).bounded64Work.2.2.2).1 <
          (flying .bounded64 3#64 State.reset).bounded64Work.1) ∧
    ((sched [rd 0x10] seeded32).resetNow = false ∧ (sched [rd 0x10] seeded32).acceptNow = none ∧
      (sched [rd 0x10] seeded32).engineNow = none) := ⟨⟨rfl, by decide⟩, by decide⟩

/-- The largest rotation of the highest bit, and no rotation. -/
theorem test_witness_RotationTakesBitIPlusRMod32 : (31 < 32 ∧ 31 < 32) ∧ (0 < 32 ∧ 0 < 32) := by decide

theorem test_witness_OutputBitsAreBits58To27Rotated : 31 < 32 ∧ 0 < 32 := by decide

theorem test_witness_Threshold32IsTwoTo32ModTheBound : (1#32 ≠ 0#32) ∧ (0xFFFFFFFF#32 ≠ 0#32) := by decide

theorem test_witness_Threshold64IsTwoTo64ModTheBound : (1#64 ≠ 0#64) ∧ (0xFFFFFFFFFFFFFFFF#64 ≠ 0#64) := by decide

theorem test_witness_SeedingHasItsClosedForm :
    BitVec.extractLsb' 0 63 1#64 = BitVec.extractLsb' 0 63 0x8000000000000001#64 := by decide

theorem test_witness_JumpEqualsRepeatedSteps :
    0 ≤ 64 ∧ 64 ≤ 64 ∧ (JumpRegs.load 0#64 3#64).delta = 0#64 := by decide

/-- The least odd increment; the largest and the least number of steps. -/
theorem test_witness_OddIncrementHasFullPeriod :
    (1#64).getLsbD 0 = true ∧ (0 < 1 ∧ 1 < 2 ^ 64) ∧ (0 < 2 ^ 64 - 1 ∧ 2 ^ 64 - 1 < 2 ^ 64) ∧ 0 < 2 ^ 64 := by decide

theorem test_witness_RetreatUndoesTheJump :
    ((3#64).getLsbD 0 = true ∨ (7#64 = 0#64 ∧ 3#64 = 0#64)) ∧
    ((0#64).getLsbD 0 = true ∨ (0#64 = 0#64 ∧ 0#64 = 0#64)) := by decide

theorem test_witness_SecondStreamIsKeptDistinct :
    BitVec.extractLsb' 0 63 5#64 = BitVec.extractLsb' 0 63 0x8000000000000005#64 ∧
    BitVec.extractLsb' 0 63 1#64 ≠ BitVec.extractLsb' 0 63 2#64 := by decide

theorem test_witness_Seed32SeedsG32 : 3#64 = ((flying .seed32 1#64 { State.reset with op1 := 1#64 }).l1 <<< 1) ||| 1#64 := by
  decide

/-- A bound of 0; the first engine step, of a bound whose draw is accepted and of one whose draw is rejected; a later one,
with a draw taken. -/
theorem test_witness_Bounded32TakesOneDrawAStep :
    (flying .bounded32 0#64 seeded32).l0.extractLsb' 0 32 = 0#32 ∧
    (let s := flying .bounded32 6#64 seeded32;
      s.l0.extractLsb' 0 32 = 6#32 ∧ 6#32 ≠ 0#32 ∧ s.inFlight = .bounded32 4#32 0 s.g32 ∧
      4#32 ≤ xshRr32 s.g32.state) ∧
    (let s := flying .bounded32 3#64 State.reset;
      s.l0.extractLsb' 0 32 = 3#32 ∧ 3#32 ≠ 0#32 ∧ s.inFlight = .bounded32 1#32 0 s.g32 ∧
      xshRr32 s.g32.state < 1#32 ∧ (stepped s).inFlight = .bounded32 1#32 1 s.g32) := by decide

theorem test_witness_Bounded32TakesOneDrawAStep_fresh :
    (flying .bounded32 6#64 seeded32).fresh .bounded32 ∧ (4#32 = (-6#32) % 6#32) := ⟨.inr (by decide), by decide⟩

theorem test_witness_Advance32StepsDeltaTimes : (flying .advance32 5#64 seeded32).fresh .advance32 := .inr rfl

/-- A seeded lane, and an unseeded one. -/
theorem test_witness_Retreat32StepsBack :
    (flying .retreat32 5#64 seeded32).fresh .retreat32 ∧ (flying .retreat32 5#64 seeded32).g32.inc.getLsbD 0 = true ∧
    (flying .retreat32 5#64 State.reset).fresh .retreat32 ∧ (flying .retreat32 5#64 State.reset).g32 = Lane.zero :=
  ⟨.inr rfl, by decide, .inr rfl, by decide⟩

/-- Sequence seeds that collide, and ones that do not. -/
theorem test_witness_Seed64SeedsBothLanesApart :
    (let s := { State.reset with l2 := 5#64, l3 := 0x8000000000000005#64 };
      0x7FFFFFFFFFFFFFFA#64 = (if s.l2.extractLsb' 0 63 = s.l3.extractLsb' 0 63 then ~~~s.l3 else s.l3) ∧
      0xB#64 = incOf s.l2 ∧ 0xFFFFFFFFFFFFFFF5#64 = incOf 0x7FFFFFFFFFFFFFFA#64) ∧
    (let s := { State.reset with l2 := 1#64, l3 := 2#64 };
      2#64 = (if s.l2.extractLsb' 0 63 = s.l3.extractLsb' 0 63 then ~~~s.l3 else s.l3) ∧
      3#64 = incOf s.l2 ∧ 5#64 = incOf 2#64) := by decide

/-- As for BOUNDED32; 0x0F5DEBA9C9828F91 is the first draw (R142). -/
theorem test_witness_Bounded64TakesOneDrawAStep :
    (flying .bounded64 0#64 seeded64).l0 = 0#64 ∧
    (let s := flying .bounded64 10#64 seeded64;
      s.l0 ≠ 0#64 ∧ s.inFlight = .bounded64 6#64 0 s.lo s.hi ∧
      BitVec.extractLsb' 0 32 0x0F5DEBA9C9828F91#64 = xshRr32 s.lo.state ∧
      BitVec.extractLsb' 32 32 0x0F5DEBA9C9828F91#64 = xshRr32 s.hi.state ∧ 6#64 ≤ 0x0F5DEBA9C9828F91#64) ∧
    (let s := flying .bounded64 3#64 State.reset;
      s.l0 ≠ 0#64 ∧ s.inFlight = .bounded64 1#64 0 s.lo s.hi ∧ BitVec.extractLsb' 0 32 0#64 = xshRr32 s.lo.state ∧
      BitVec.extractLsb' 32 32 0#64 = xshRr32 s.hi.state ∧ 0#64 < 1#64) := by decide

theorem test_witness_Bounded64TakesOneDrawAStep_fresh :
    (flying .bounded64 10#64 seeded64).fresh .bounded64 ∧
    ((6#64 : Word) = (-(flying .bounded64 10#64 seeded64).l0) % (flying .bounded64 10#64 seeded64).l0) :=
  ⟨.inr (by decide), by decide⟩

theorem test_witness_Advance64StepsBothLanesDeltaTimes : (flying .advance64 3#64 seeded64).fresh .advance64 := .inr rfl

theorem test_witness_Retreat64StepsBothLanesBack :
    (flying .retreat64 1#64 seeded64).fresh .retreat64 ∧ (flying .retreat64 1#64 seeded64).lo.inc.getLsbD 0 = true ∧
    (flying .retreat64 1#64 seeded64).hi.inc.getLsbD 0 = true ∧
    (flying .retreat64 1#64 State.reset).fresh .retreat64 ∧ (flying .retreat64 1#64 State.reset).lo = Lane.zero ∧
    (flying .retreat64 1#64 State.reset).hi = Lane.zero :=
  ⟨.inr rfl, by decide, by decide, .inr rfl, by decide, by decide⟩

/-- Every command, of either context; the bytes before, between and after the ones a command may write. -/
theorem test_witness_CommandFrames :
    (∀ i, ∃ t, exec i (flying i 0#64 State.reset) = .next t) ∧
    (tableCommandWord .random32).getLsbD 4 = false ∧ (tableCommandWord .random64).getLsbD 4 = true ∧
    ((0x0F : Fin 256).val / 8 < 10 ∧ (0x0F : Fin 256).val / 8 ≠ 2 ∧ (0x0F : Fin 256).val / 8 ≠ 8) ∧
    ((0x48 : Fin 256).val / 8 < 10 ∧ (0x48 : Fin 256).val / 8 ≠ 8) ∧ 15 < (0x80 : Fin 256).val / 8 ∧
    15 < (0xFF : Fin 256).val / 8 := ⟨fun i => exec_next i _, by decide⟩

theorem test_witness_CommandsWriteTheLaneFieldsOfTheTable :
    ∀ i, (flying i 0#64 State.reset).Inv ∧ (flying i 0#64 State.reset).busy = true ∧
      decode (flying i 0#64 State.reset).lcmd = .ok i ∧ ∃ t, exec i (flying i 0#64 State.reset) = .next t :=
  fun i => ⟨flying_inv i, by cases i <;> decide, by cases i <;> decide, exec_next i _⟩

/-- A seeded context and an unseeded one. -/
theorem test_witness_Retreat32InvertsAdvance32 :
    (seeded32.Inv ∧ seeded32.busy = false) ∧ (State.reset.Inv ∧ State.reset.busy = false) :=
  ⟨⟨seeded32_inv, by decide⟩, reset_inv, by decide⟩

/-- SEED64 (7, 7, 5, 5), whose sequence seeds collide. -/
theorem test_witness_HalvesOf64BitDrawsAre32BitDraws :
    let s : State := { seeded64 with op0 := 7#64, op1 := 7#64, op2 := 5#64, op3 := 5#64 }
    let p : State := { seeded32 with op0 := 7#64, op1 := 5#64 }
    let q : State := { State.reset with op0 := 7#64, op1 := 0xFFFFFFFFFFFFFFFA#64 }
    s.busy = false ∧ p.busy = false ∧ q.busy = false ∧ p.op0 = s.op0 ∧ p.op1 = s.op2 ∧ q.op0 = s.op1 ∧
      q.op1 = distinctSeq2 s.op2 s.op3 := by decide

/-- One step, of RANDOM64. -/
theorem test_witness_LanesOfG64StayInLockStep :
    (flying .random64 0#64 seeded64).Inv ∧
    Host.Core.run core 1 (flying .random64 0#64 seeded64) = .next (stepped (flying .random64 0#64 seeded64)) ∧
    ∀ j < 1, ∀ u, Host.Core.run core j (flying .random64 0#64 seeded64) = .next u →
      u.resetNow = false ∧ u.engineNow ≠ some .clear64 ∧ u.engineNow ≠ some .seed64 := by
  refine ⟨random64_inv, rfl, fun j hj u hu => ?_⟩
  obtain rfl : j = 0 := Nat.lt_one_iff.1 hj
  injection hu with hu
  subst hu
  decide

/-- V-B32-11: the first draw is rejected, the second accepted. -/
theorem test_witness_Bounded32ReturnsTheFirstAcceptedDraw :
    let s := flying .bounded32 0x80000001#64 { seeded32 with g32 := { state := 0xAA743F0FEBFF352E#64, inc := 3#64 } }
    s.schedule = [] ∧ s.busy = true ∧ decode s.lcmd = .ok .bounded32 ∧ s.fresh .bounded32 ∧ s.bound32 ≠ 0#32 ∧
      (∀ k < 1, s.g32.drawAt k < threshold32 s.bound32) ∧ threshold32 s.bound32 ≤ s.g32.drawAt 1 :=
  ⟨rfl, by decide, by decide, .inr (by decide), by decide, by decide, by decide⟩

/-- R143's example: two draws are rejected, the third accepted. -/
theorem test_witness_Bounded64ReturnsTheFirstAcceptedDraw :
    let s := flying .bounded64 0x8000000000000001#64 seeded64
    s.schedule = [] ∧ s.busy = true ∧ decode s.lcmd = .ok .bounded64 ∧ s.fresh .bounded64 ∧ s.bound64 ≠ 0#64 ∧
      (∀ k < 2, draw64At s.lo s.hi k < threshold64 s.bound64) ∧ threshold64 s.bound64 ≤ draw64At s.lo s.hi 2 :=
  ⟨rfl, by decide, by decide, .inr (by decide), by decide, by decide, by decide⟩

theorem three_is_no_power_of_two : ∀ j, 3 ≠ 2 ^ j
  | 0 => by decide
  | 1 => by decide
  | j + 2 => by rw [Nat.pow_add]; omega

theorem reset_busy : (flying .bounded32 3#64 State.reset).busy = true := by decide
theorem reset_lcmd : decode (flying .bounded32 3#64 State.reset).lcmd = .ok .bounded32 := by decide
theorem reset_seeded32 : (flying .bounded32 3#64 State.reset).seeded32 = false := by decide
theorem reset_bound32 : (flying .bounded32 3#64 State.reset).bound32 ≠ 0#32 := by decide

/-- Bound 3, the least that is neither 0 nor a power of two, on each context; the clauses at the end of the run: a CMD
write, a POLL, reset. -/
theorem test_witness_UnseededBoundedHangsUntilReset :
    (∀ ts, (sched ts (flying .bounded32 3#64 State.reset)).busy = true ∧
      decode (sched ts (flying .bounded32 3#64 State.reset)).lcmd = .ok .bounded32 ∧
      (sched ts (flying .bounded32 3#64 State.reset)).seeded32 = false ∧
      (sched ts (flying .bounded32 3#64 State.reset)).bound32 ≠ 0#32 ∧
      (∀ j, (sched ts (flying .bounded32 3#64 State.reset)).bound32.toNat ≠ 2 ^ j) ∧
      Host.Core.run core 0 (sched ts (flying .bounded32 3#64 State.reset)) =
        .next (sched ts (flying .bounded32 3#64 State.reset))) ∧
    (flying .bounded32 3#64 State.reset).Inv ∧
    ((flying .bounded64 3#64 State.reset).Inv ∧
      decode (flying .bounded64 3#64 State.reset).lcmd = .ok .bounded64 ∧
      (flying .bounded64 3#64 State.reset).seeded64 = false ∧ (flying .bounded64 3#64 State.reset).bound64 ≠ 0#64 ∧
      ∀ j, (flying .bounded64 3#64 State.reset).bound64.toNat ≠ 2 ^ j) ∧
    Host.Core.run core 1 (flying .bounded32 3#64 State.reset) = .next (stepped (flying .bounded32 3#64 State.reset)) ∧
    (flying .bounded32 3#64 State.reset).resetNow = false ∧
    (sched [wr 0x18 3#64] (flying .bounded32 3#64 State.reset)).writeNow 0x18 = some 3#64 ∧
    (sched [.poll] (flying .bounded32 3#64 State.reset)).schedule = .poll :: [] ∧
    (sched [.reset] (flying .bounded32 3#64 State.reset)).resetNow = true :=
  ⟨fun _ => ⟨reset_busy, reset_lcmd, reset_seeded32, reset_bound32, three_is_no_power_of_two, rfl⟩, bounded32_inv _ (.inl rfl) _ (.inl rfl),
    ⟨bounded64_inv _ (.inl rfl), by decide, by decide, by decide, three_is_no_power_of_two⟩, rfl, by decide, by decide,
    rfl, by decide⟩

theorem test_witness_SeededBoundedCompletesWithinTwoTo64Draws :
    ((flying .bounded32 3#64 seeded32).Inv ∧ (flying .bounded32 3#64 seeded32).schedule = [] ∧
      (flying .bounded32 3#64 seeded32).busy = true ∧ decode (flying .bounded32 3#64 seeded32).lcmd = .ok .bounded32 ∧
      (flying .bounded32 3#64 seeded32).seeded32 = true) ∧
    ((flying .bounded64 3#64 seeded64).Inv ∧ (flying .bounded64 3#64 seeded64).schedule = [] ∧
      (flying .bounded64 3#64 seeded64).busy = true ∧ decode (flying .bounded64 3#64 seeded64).lcmd = .ok .bounded64 ∧
      (flying .bounded64 3#64 seeded64).seeded64 = true) :=
  ⟨⟨bounded32_inv _ (.inr rfl) _ (.inl rfl), by decide⟩, ⟨bounded64_inv _ (.inr rfl), by decide⟩⟩

end Sys2Proof.Tests
end

section
/-! SUPPORT. Facts about the decoder, the window and the draws that the statements on the state need. -/

namespace Sys2Proof.Machine

/-! ### The words that decode (30_encoding.md R84) -/

theorem wordOfFields_fieldsOfWord (w : Word) : wordOfFields (fieldsOfWord w) = w := by
  unfold wordOfFields fieldsOfWord
  dsimp only
  rw [BitVec.extractLsb'_append_extractLsb'_eq_extractLsb' (by rfl),
    BitVec.extractLsb'_append_extractLsb'_eq_extractLsb' (by rfl)]
  exact BitVec.extractLsb'_eq_self

theorem fields_of_decodeFields {w : BitVec 1} {f : BitVec 4} {i : Instr} (h : decodeFields w f = .ok i) :
    i.fields = { func := f, w := w, rsv := 0#59 } := by
  unfold decodeFields at h
  split at h <;> cases h <;> rfl

/-- A word that decodes is the command's own word. -/
theorem eq_encode_of_decode {w : Word} {i : Instr} (h : decode w = .ok i) : w = encode i := by
  unfold decode at h
  dsimp only at h
  split at h
  · rename_i hr
    have hf : i.fields = fieldsOfWord w := (fields_of_decodeFields h).trans (by rw [← hr])
    rw [encode, hf, wordOfFields_fieldsOfWord]
  · cases h

/-! ### The checks of a CMD write, as claims and as the machine name them -/

theorem isCommand_of_ok {w : Word} {i : Instr} (h : decode w = .ok i) : isCommand w = true := by
  rw [isCommand, h]

theorem isCommand_of_error {w : Word} {e : IllegalWord} (h : decode w = .error e) : isCommand w = false := by
  rw [isCommand, h]

theorem wideBound_of_ok {w : Word} {i : Instr} (s : State) (h : decode w = .ok i) :
    s.wideBound w = operandTooWide i s := by
  rw [eq_encode_of_decode h, State.wideBound]
  cases i <;> rfl

theorem wideBound_of_error {w : Word} {e : IllegalWord} (s : State) (h : decode w = .error e) :
    s.wideBound w = false := by
  have hw : w ≠ 0x4#64 := by rintro rfl; cases h
  simp [State.wideBound, hw]

theorem unseededUse_of_ok {w : Word} {i : Instr} (s : State) (h : decode w = .ok i) :
    s.unseededUse w = usesUnseeded i s := by
  rw [eq_encode_of_decode h, State.unseededUse]
  cases i <;> simp [encode, Instr.fields, wordOfFields, usesUnseeded]

/-! ### The window -/

theorem regAt_reserved {off : Fin 256} (h : 0x80 ≤ off.val) : regAt off = none := by
  unfold regAt
  split
  case h_17 => rfl
  all_goals omega

theorem hostAccess_legal_read {off : Fin 256} (h : off.val % 8 = 0) (s : State) :
    hostAccess off 8 .read s = readLegal off s := by
  simp [hostAccess, legalAccess, h]

theorem hostAccess_legal_write {off : Fin 256} (h : off.val % 8 = 0) (v : Word) (s : State) :
    hostAccess off 8 (.write v) s = writeLegal off v s := by
  simp [hostAccess, legalAccess, h]

/-! ### 64-bit draws -/

theorem draw64_eq (lo hi : Lane) : draw64 lo hi = (draw64At lo hi 0, lo.steps 1, hi.steps 1) := rfl

theorem concat32_eq_append (h l : Word32) : concat32 h l = h ++ l := by
  unfold concat32 zext64
  rw [BitVec.append_def]
  simp [BitVec.shiftLeftZeroExtend_eq, BitVec.setWidth'_eq]

end Sys2Proof.Machine
end

section
/-! SUPPORT. The inversion of a step in the terms of claims: what the step is seen to be, and what it does to the block. -/

namespace Sys2Proof.Machine

/-! ### What the next step is seen to be -/

/-- The word that a step records for event `f`, where the one event it raises, if any, is `ev`. -/
def recordedWord (ev : Option (Event × Word)) (f : Event) : Option Word :=
  match ev with
  | none => none
  | some (e, w) => if f = e then some w else none

@[simp] theorem recordedWord_none (f : Event) : recordedWord none f = none := rfl
@[simp] theorem recordedWord_some (e f : Event) (w : Word) :
    recordedWord (some (e, w)) f = if f = e then some w else none := rfl

/-- What the next step is: whether reset, the command it runs, the word it accepts, the one event it raises with its word,
the value it writes to STATUS. -/
structure State.Shows (s : State) (reset : Bool) (engine : Option Instr) (accept : Option Word)
    (event : Option (Event × Word)) (clear : Option Word) : Prop where
  reset : s.resetNow = reset
  engine : s.engineNow = engine
  accept : s.acceptNow = accept
  event : ∀ f, s.eventNow f = recordedWord event f
  clear : s.writeNow 0x10 = clear

theorem acceptNow_of_no_command {s : State} (h : s.writeNow 0x18 = none) : s.acceptNow = none := by
  rw [State.acceptNow, h]

/-- With no CMD write the only event is an access that is not legal. -/
theorem eventNow_of_no_command {s : State} (h : s.writeNow 0x18 = none) {e : Event} (he : e ≠ .errAccess) :
    s.eventNow e = none := by
  cases e <;> simp_all [State.eventNow, acceptNow_of_no_command h]

theorem eventNow_access_of_no_access {s : State} (h : s.accessNow = none) : s.eventNow .errAccess = none := by
  simp [State.eventNow, h]

theorem eventNow_access {s : State} {a : Access} (h : s.accessNow = some a) :
    s.eventNow .errAccess = if a.size = 8 ∧ a.off.val % 8 = 0 then none else some 0#64 := by
  simp [State.eventNow, h]

theorem shows_of_no_access {s : State} {r : Bool} {i : Option Instr} (hr : s.resetNow = r) (hi : s.engineNow = i)
    (h : s.accessNow = none) : s.Shows r i none none none where
  reset := hr
  engine := hi
  accept := acceptNow_of_no_command (writeNow_of_no_access h _)
  event f := by
    by_cases hf : f = .errAccess
    · rw [hf]; exact eventNow_access_of_no_access h
    · exact eventNow_of_no_command (writeNow_of_no_access h _) hf
  clear := writeNow_of_no_access h _

/-- A legal access other than a CMD write raises no event and accepts nothing. -/
theorem shows_of_legal_access {s : State} {off : Fin 256} {d : Dir} (hr : s.resetNow = false) (hi : s.engineNow = none)
    (h : s.accessNow = some { off := off, size := 8, dir := d }) (h8 : off.val % 8 = 0)
    (hc : s.writeNow 0x18 = none) : s.Shows false none none none (s.writeNow 0x10) where
  reset := hr
  engine := hi
  accept := acceptNow_of_no_command hc
  event f := by
    by_cases hf : f = .errAccess
    · rw [hf, eventNow_access h]; simp [h8]
    · exact eventNow_of_no_command hc hf
  clear := rfl

theorem writeNow_of_illegal {s : State} {a : Access} (h : s.accessNow = some a) (hn : a.size ≠ 8 ∨ a.off.val % 8 ≠ 0)
    (off : Fin 256) : s.writeNow off = none := by
  obtain ⟨o, n, d⟩ := a
  cases d with
  | read => exact writeNow_of_read h off
  | write v =>
    rw [writeNow_of_write h, if_neg]
    rintro ⟨rfl, rfl, h8⟩
    exact hn.elim (absurd rfl) (absurd h8)

theorem shows_of_illegal_access {s : State} {a : Access} (hr : s.resetNow = false) (hi : s.engineNow = none)
    (h : s.accessNow = some a) (hn : a.size ≠ 8 ∨ a.off.val % 8 ≠ 0) :
    s.Shows false none none (some (.errAccess, 0#64)) none where
  reset := hr
  engine := hi
  accept := acceptNow_of_no_command (writeNow_of_illegal h hn _)
  event f := by
    by_cases hf : f = .errAccess
    · rw [hf, eventNow_access h, if_neg (by tauto)]; rfl
    · rw [eventNow_of_no_command (writeNow_of_illegal h hn _) hf, recordedWord_some, if_neg hf]
  clear := writeNow_of_illegal h hn _

/-! ### CMD writes, by their outcome (30_encoding.md R92) -/

section
variable {s : State} {w : Word} {i : Instr} {e : IllegalWord}
  (hr : s.resetNow = false) (hi : s.engineNow = none)
  (h : s.accessNow = some { off := 0x18, size := 8, dir := .write w })

include h in
theorem writeNow_command : s.writeNow 0x18 = some w ∧ s.writeNow 0x10 = none := by
  constructor <;> rw [writeNow_of_write h] <;> rfl

include hr hi h

theorem shows_of_overrun (hb : s.busy = true) : s.Shows false none none (some (.errOverrun, w)) none := by
  obtain ⟨hw, hc⟩ := writeNow_command h
  have hn : s.acceptNow = none := by simp [State.acceptNow, hw, hb]
  refine ⟨hr, hi, hn, fun f => ?_, hc⟩
  cases f <;> simp [State.eventNow, hw, hn, hb, h]

theorem shows_of_illegal_word (hb : s.busy = false) (hd : decode w = .error e) :
    s.Shows false none none (some (.errIllegal, w)) none := by
  obtain ⟨hw, hc⟩ := writeNow_command h
  have hn : s.acceptNow = none := by simp [State.acceptNow, hw, isCommand_of_error hd]
  refine ⟨hr, hi, hn, fun f => ?_, hc⟩
  cases f <;> simp [State.eventNow, hw, hn, hb, h, isCommand_of_error hd, wideBound_of_error s hd]

theorem shows_of_wide_bound (hb : s.busy = false) (hd : decode w = .ok i) (ho : operandTooWide i s = true) :
    s.Shows false none none (some (.errOperand, w)) none := by
  obtain ⟨hw, hc⟩ := writeNow_command h
  have hn : s.acceptNow = none := by simp [State.acceptNow, hw, wideBound_of_ok s hd, ho]
  refine ⟨hr, hi, hn, fun f => ?_, hc⟩
  cases f <;> simp [State.eventNow, hw, hn, hb, h, isCommand_of_ok hd, wideBound_of_ok s hd, ho]

theorem shows_of_acceptance (hb : s.busy = false) (hd : decode w = .ok i) (ho : operandTooWide i s = false) :
    s.Shows false none (some w) (if usesUnseeded i s then some (.warnUnseeded, w) else none) none := by
  obtain ⟨hw, hc⟩ := writeNow_command h
  have hn : s.acceptNow = some w := by
    simp [State.acceptNow, hw, hb, isCommand_of_ok hd, wideBound_of_ok s hd, ho]
  refine ⟨hr, hi, hn, fun f => ?_, hc⟩
  cases hu : usesUnseeded i s <;> cases f <;>
    simp [State.eventNow, hw, hn, hb, h, isCommand_of_ok hd, wideBound_of_ok s hd, ho, unseededUse_of_ok s hd, hu]

end

/-! ### The inversion -/

/-- What a step is seen to be, with what it does to the block. -/
inductive StepOutcome (s s' : State) : Prop
  /-- an engine step of the command in flight -/
  | ran (i : Instr) (seen : s.Shows false (some i) none none none) (busy : s.busy = true)
      (word : decode s.lcmd = .ok i) (exec : exec i s.popped = .next s')
  /-- reset -/
  | reset (seen : s.Shows true none none none none) (next : s' = resetBlock s.popped)
  /-- an idle turn, a read, a write of an operand register, an ignored write -/
  | quiet (seen : s.Shows false none none none none)
      (next : ∃ o0 o1 o2 o3 ts rs fc, s' = { s with
        op0 := o0, op1 := o1, op2 := o2, op3 := o3, schedule := ts, reads := rs, freeCount := fc })
  /-- a legal write to STATUS -/
  | cleared (v : Word) (seen : s.Shows false none none none (some v)) (next : s' = clearEvents v s.popped)
  /-- an access that is not legal, or a CMD write that is rejected -/
  | rejected (e : Event) (w : Word) (seen : s.Shows false none none (some (e, w)) none)
      (next : ∃ rs, s' = raiseEvent e w { s.popped with reads := rs })
  /-- a CMD write that is accepted -/
  | accepted (i : Instr) (w : Word) (busy : s.busy = false) (word : decode w = .ok i)
      (seen : s.Shows false none (some w) (if usesUnseeded i s then some (.warnUnseeded, w) else none) none)
      (next : s' = acceptCommand i w s.popped)

theorem operandTooWide_popped (i : Instr) (s : State) : operandTooWide i s.popped = operandTooWide i s := by
  cases i <;> rfl

theorem usesUnseeded_popped (i : Instr) (s : State) : usesUnseeded i s.popped = usesUnseeded i s := by
  cases i <;> rfl

theorem stepOutcome_of_command {s : State} {w : Word} (hr : s.resetNow = false) (hi : s.engineNow = none)
    (h : s.accessNow = some { off := 0x18, size := 8, dir := .write w }) :
    StepOutcome s (submitCommand w s.popped) := by
  obtain ⟨hb, hx⟩ | ⟨hb, ⟨e, hd⟩, hx⟩ | ⟨i, hb, hd, ho, hx⟩ | ⟨i, hb, hd, ho, hx⟩ := submitCommand_cases w s.popped
  · exact .rejected _ w (shows_of_overrun hr hi h hb) ⟨_, hx⟩
  · exact .rejected _ w (shows_of_illegal_word hr hi h hb hd) ⟨_, hx⟩
  · rw [operandTooWide_popped] at ho
    exact .rejected _ w (shows_of_wide_bound hr hi h hb hd ho) ⟨_, hx⟩
  · rw [operandTooWide_popped] at ho
    exact .accepted i w hb hd (shows_of_acceptance hr hi h hb hd ho) hx

theorem stepOutcome_of_write {s : State} {off : Fin 256} {v : Word} (hr : s.resetNow = false) (hi : s.engineNow = none)
    (h : s.accessNow = some { off := off, size := 8, dir := .write v }) (h8 : off.val % 8 = 0) :
    StepOutcome s (writeLegal off v s.popped) := by
  by_cases hcmd : off = 0x18
  · subst hcmd; exact stepOutcome_of_command hr hi h
  have hc : s.writeNow 0x18 = none := by rw [writeNow_of_write h, if_neg (by tauto)]
  have hs := shows_of_legal_access hr hi h h8 hc
  by_cases hst : off = 0x10
  · subst hst
    rw [writeNow_of_write h] at hs
    exact .cleared v hs rfl
  rw [writeNow_of_write h, if_neg (by tauto)] at hs
  refine .quiet hs ?_
  obtain ⟨hk, _⟩ | ⟨hk, _⟩ | ⟨_, hx⟩ | ⟨_, hx⟩ | ⟨_, hx⟩ | ⟨_, hx⟩ | ⟨_, hx⟩ := writeLegal_cases off v s.popped
  · exact absurd (Fin.ext (by simp; omega)) hst
  · exact absurd (Fin.ext (by simp; omega)) hcmd
  all_goals exact ⟨_, _, _, _, _, _, _, hx⟩

/-- Every step that answers a next state has one of these outcomes. -/
theorem stepOutcome_of_step {s s' : State} (h : step s = .next s') : StepOutcome s s' := by
  obtain ⟨i, hi, ha, hr, hb, hd, hx⟩ | ⟨hi, ha, hr, hx⟩ | ⟨off, hi, ha, h8, hr, ts, rs, fc, hx⟩ |
    ⟨off, v, hi, ha, h8, hr, hx⟩ | ⟨a, hi, ha, hn, hr, hx⟩ | ⟨hi, ha, hr, hx⟩ := step_effect h
  · exact .ran i (shows_of_no_access hr hi ha) hb hd hx
  · exact .quiet (shows_of_no_access hr hi ha) ⟨_, _, _, _, _, _, _, hx⟩
  · have hs := shows_of_legal_access hr hi ha h8 (writeNow_of_read ha _)
    rw [writeNow_of_read ha] at hs
    exact .quiet hs ⟨_, _, _, _, ts, rs, fc, hx⟩
  · exact hx ▸ stepOutcome_of_write hr hi ha h8
  · exact .rejected _ _ (shows_of_illegal_access hr hi ha hn) hx
  · exact .reset (shows_of_no_access hr hi ha) hx

end Sys2Proof.Machine
end

section
/-! SUPPORT. What one engine step of a command can do (spec/41_pcg32.md R120), and what follows for the registers. -/

namespace Sys2Proof.Machine

/-! ### BOUNDED -/

theorem execBounded32_cases {s t : State} (h : exec .bounded32 s = .next t) :
    (s.bound32 = 0#32 ∧ t = completeWith 0#64 s) ∨
    (s.bound32 ≠ 0#32 ∧ s.bounded32Work.1 ≤ (draw32 s.bounded32Work.2.2).1 ∧
      t = completeWith (zext64 ((draw32 s.bounded32Work.2.2).1 % s.bound32))
        { s with g32 := (draw32 s.bounded32Work.2.2).2 }) ∨
    (s.bound32 ≠ 0#32 ∧ ¬ s.bounded32Work.1 ≤ (draw32 s.bounded32Work.2.2).1 ∧
      ∃ f, t = { s with inFlight := f }) := by
  change execBounded32 s = .next t at h
  unfold execBounded32 at h
  by_cases hb : s.bound32 = 0#32
  · rw [if_pos hb] at h
    exact .inl ⟨hb, by simpa using h.symm⟩
  · rw [if_neg hb] at h
    dsimp only at h
    split at h
    · exact .inr (.inl ⟨hb, ‹_›, by simpa using h.symm⟩)
    · exact .inr (.inr ⟨hb, ‹_›, _, by simpa using h.symm⟩)

theorem execBounded64_cases {s t : State} (h : exec .bounded64 s = .next t) :
    (s.bound64 = 0#64 ∧ t = completeWith 0#64 s) ∨
    (s.bound64 ≠ 0#64 ∧ s.bounded64Work.1 ≤ (draw64 s.bounded64Work.2.2.1 s.bounded64Work.2.2.2).1 ∧
      t = completeWith ((draw64 s.bounded64Work.2.2.1 s.bounded64Work.2.2.2).1 % s.bound64)
        { s with
          lo := (draw64 s.bounded64Work.2.2.1 s.bounded64Work.2.2.2).2.1
          hi := (draw64 s.bounded64Work.2.2.1 s.bounded64Work.2.2.2).2.2 }) ∨
    (s.bound64 ≠ 0#64 ∧ ¬ s.bounded64Work.1 ≤ (draw64 s.bounded64Work.2.2.1 s.bounded64Work.2.2.2).1 ∧
      ∃ f, t = { s with inFlight := f }) := by
  change execBounded64 s = .next t at h
  unfold execBounded64 at h
  by_cases hb : s.bound64 = 0#64
  · rw [if_pos hb] at h
    exact .inl ⟨hb, by simpa using h.symm⟩
  · rw [if_neg hb] at h
    dsimp only at h
    split at h
    · exact .inr (.inl ⟨hb, ‹_›, by simpa using h.symm⟩)
    · exact .inr (.inr ⟨hb, ‹_›, _, by simpa using h.symm⟩)

/-- A bound of 0 completes with result 0 and no draw (40_datapath.md R109). -/
theorem execBounded32_zero {s t : State} (hb : s.bound32 = 0#32) (h : exec .bounded32 s = .next t) :
    t = completeWith 0#64 s := by
  obtain ⟨_, ht⟩ | ⟨hn, _⟩ | ⟨hn, _⟩ := execBounded32_cases h
  · exact ht
  · exact absurd hb hn
  · exact absurd hb hn

theorem execBounded64_zero {s t : State} (hb : s.bound64 = 0#64) (h : exec .bounded64 s = .next t) :
    t = completeWith 0#64 s := by
  obtain ⟨_, ht⟩ | ⟨hn, _⟩ | ⟨hn, _⟩ := execBounded64_cases h
  · exact ht
  · exact absurd hb hn
  · exact absurd hb hn

/-- BOUNDED32 over the working values of the invariant: after draws that were all rejected, the next one decides. -/
theorem execBounded32_of_flightOk {s t : State} (hf : s.flightOk .bounded32) (hb : s.bound32 ≠ 0#32)
    (h : exec .bounded32 s = .next t) :
    ∃ n, (∀ k < n, s.g32.drawAt k < threshold32 s.bound32) ∧
      ((threshold32 s.bound32 ≤ s.g32.drawAt n ∧
          t = completeWith (zext64 (s.g32.drawAt n % s.bound32)) { s with g32 := s.g32.steps (n + 1) }) ∨
        ∃ f, t = { s with inFlight := f }) := by
  obtain ⟨-, -, hw⟩ := hf
  obtain ⟨n, hw, hrej⟩ := hw hb
  have hwork : s.bounded32Work = (threshold32 s.bound32, n, s.g32.steps n) := by rw [State.bounded32Work, hw]
  refine ⟨n, hrej, ?_⟩
  obtain ⟨h0, _⟩ | ⟨_, hacc, ht⟩ | ⟨_, _, ht⟩ := execBounded32_cases h
  · exact absurd h0 hb
  · rw [hwork, draw32_steps] at hacc ht
    exact .inl ⟨hacc, ht⟩
  · exact .inr ht

/-- BOUNDED64 over the working values of the invariant. -/
theorem execBounded64_of_flightOk {s t : State} (hf : s.flightOk .bounded64) (hb : s.bound64 ≠ 0#64)
    (h : exec .bounded64 s = .next t) :
    ∃ n, (∀ k < n, draw64At s.lo s.hi k < threshold64 s.bound64) ∧
      ((threshold64 s.bound64 ≤ draw64At s.lo s.hi n ∧
          t = completeWith (draw64At s.lo s.hi n % s.bound64)
            { s with lo := s.lo.steps (n + 1), hi := s.hi.steps (n + 1) }) ∨
        ∃ f, t = { s with inFlight := f }) := by
  obtain ⟨-, hw⟩ := hf
  obtain ⟨n, hw, hrej⟩ := hw hb
  have hwork : s.bounded64Work = (threshold64 s.bound64, n, s.lo.steps n, s.hi.steps n) := by
    rw [State.bounded64Work, hw]
  refine ⟨n, hrej, ?_⟩
  obtain ⟨h0, _⟩ | ⟨_, hacc, ht⟩ | ⟨_, _, ht⟩ := execBounded64_cases h
  · exact absurd h0 hb
  · rw [hwork, draw64_steps] at hacc ht
    exact .inl ⟨hacc, ht⟩
  · exact .inr ht

/-! ### Any command -/

/-- The commands that write RES and set RV at completion (10_state.md R35, R46). -/
def returnsResult : Instr → Bool
  | .random32 | .bounded32 | .random64 | .bounded64 => true
  | .clear32 | .seed32 | .advance32 | .retreat32 | .clear64 | .seed64 | .advance64 | .retreat64 => false

/-- STATUS with the SEEDED flag that a command writes, if it writes one (10_state.md R36, R37). -/
def seededStatus (i : Instr) (status : Word) : Word :=
  match i with
  | .clear32 => setBit status seeded32Bit false
  | .seed32 => setBit status seeded32Bit true
  | .clear64 => setBit status seeded64Bit false
  | .seed64 => setBit status seeded64Bit true
  | .random32 | .bounded32 | .advance32 | .retreat32 | .random64 | .bounded64 | .advance64 | .retreat64 => status

/-- What an engine step does beside the values it gives the lanes and RES. -/
inductive ExecOutcome (i : Instr) (s t : State) : Prop
  /-- completion with no result -/
  | completed (result : returnsResult i = false)
      (next : ∃ a b c, t = complete { s with g32 := a, lo := b, hi := c, status := seededStatus i s.status })
  /-- completion with a result -/
  | returned (result : returnsResult i = true)
      (next : ∃ r a b c, t = completeWith r { s with g32 := a, lo := b, hi := c })
  /-- a rejected draw of a BOUNDED -/
  | pending (result : returnsResult i = true) (next : ∃ f, t = { s with inFlight := f })

theorem execOutcome_of_exec {i : Instr} {s t : State} (h : exec i s = .next t) : ExecOutcome i s t := by
  cases i
  case bounded32 =>
    obtain ⟨_, ht⟩ | ⟨_, _, ht⟩ | ⟨_, _, ht⟩ := execBounded32_cases h
    · exact .returned rfl ⟨_, _, _, _, ht⟩
    · exact .returned rfl ⟨_, _, _, _, ht⟩
    · exact .pending rfl ht
  case bounded64 =>
    obtain ⟨_, ht⟩ | ⟨_, _, ht⟩ | ⟨_, _, ht⟩ := execBounded64_cases h
    · exact .returned rfl ⟨_, _, _, _, ht⟩
    · exact .returned rfl ⟨_, _, _, _, ht⟩
    · exact .pending rfl ht
  case random32 => cases h; exact .returned rfl ⟨_, _, _, _, rfl⟩
  case random64 => cases h; exact .returned rfl ⟨_, _, _, _, rfl⟩
  all_goals cases h; exact .completed rfl ⟨_, _, _, rfl⟩

/-- A command's SEEDED flag is the only bit that `seededStatus` writes. -/
theorem getLsbD_seededStatus (i : Instr) (w : Word) (j : Nat) :
    (seededStatus i w).getLsbD j =
      if j = 2 ∧ i = .seed32 ∨ j = 3 ∧ i = .seed64 then true
      else if j = 2 ∧ i = .clear32 ∨ j = 3 ∧ i = .clear64 then false
      else w.getLsbD j := by
  cases i <;> simp (disch := decide) [seededStatus, getLsbD_setBit]

section
variable {i : Instr} {s t : State}

theorem exec_errinfo (h : exec i s = .next t) : t.errinfo = s.errinfo := by
  obtain ⟨_, _, _, _, rfl⟩ | ⟨_, _, _, _, _, rfl⟩ | ⟨_, _, rfl⟩ := execOutcome_of_exec h <;> rfl

/-- An engine step writes the SEEDED flags only as the command's own, and no bit of STATUS above them. -/
theorem exec_status_bit (h : exec i s = .next t) {j : Nat} (hj : 2 ≤ j) :
    t.status.getLsbD j =
      if j = 2 ∧ i = .seed32 ∨ j = 3 ∧ i = .seed64 then true
      else if j = 2 ∧ i = .clear32 ∨ j = 3 ∧ i = .clear64 then false
      else s.status.getLsbD j := by
  have h0 : j ≠ 0 := by omega
  have h1 : j ≠ 1 := by omega
  have hresult : returnsResult i = true → i ≠ .seed32 ∧ i ≠ .seed64 ∧ i ≠ .clear32 ∧ i ≠ .clear64 := by
    cases i <;> simp [returnsResult]
  obtain ⟨_, _, _, _, rfl⟩ | ⟨hr, _, _, _, _, rfl⟩ | ⟨hr, _, rfl⟩ := execOutcome_of_exec h
  · rw [complete_bit, if_neg h0]; exact getLsbD_seededStatus i s.status j
  · rw [completeWith_bit, if_neg h0, if_neg h1]; simp [hresult hr]
  · simp [hresult hr]

theorem exec_event_bit (h : exec i s = .next t) (e : Event) : t.eventBit e = s.eventBit e := by
  have := event_code_range e
  rw [eventBit_def, exec_status_bit h (by omega), if_neg (by omega), if_neg (by omega), eventBit_def]

theorem exec_seeded32 (h : exec i s = .next t) :
    t.seeded32 = if i = .seed32 then true else if i = .clear32 then false else s.seeded32 := by
  rw [seeded32_def, exec_status_bit h (by decide)]; simp [seeded32_def]

theorem exec_seeded64 (h : exec i s = .next t) :
    t.seeded64 = if i = .seed64 then true else if i = .clear64 then false else s.seeded64 := by
  rw [seeded64_def, exec_status_bit h (by decide)]; simp [seeded64_def]

theorem seededStatus_rv (i : Instr) (s : State) :
    ({ s with status := seededStatus i s.status } : State).rv = s.rv := by
  rw [rv_def, getLsbD_seededStatus]; simp [rv_def]

/-- A completion with no result, or a rejected draw, keeps RV and RES. -/
theorem exec_keeps_result (h : exec i s = .next t) (hk : returnsResult i = false ∨ t.busy = true) :
    t.rv = s.rv ∧ t.res = s.res := by
  obtain ⟨_, _, _, _, rfl⟩ | ⟨hr, _, _, _, _, rfl⟩ | ⟨_, _, rfl⟩ := execOutcome_of_exec h
  · exact ⟨(complete_rv _).trans (seededStatus_rv i s), rfl⟩
  · simp [hr] at hk
  · exact ⟨rfl, rfl⟩

/-- RV after the completion of a command that started with RV 0. -/
theorem exec_rv_of_completion (h : exec i s = .next t) (hb : s.busy = true) (hrv : s.rv = false)
    (ht : t.busy = false) : t.rv = returnsResult i := by
  obtain ⟨hr, _⟩ | ⟨hr, _, _, _, _, rfl⟩ | ⟨_, _, rfl⟩ := execOutcome_of_exec h
  · rw [hr, (exec_keeps_result h (.inl hr)).1, hrv]
  · rw [hr, completeWith_rv]
  · exact absurd (hb.symm.trans ht) (by decide)

end

end Sys2Proof.Machine
end

section
/-! SUPPORT. The bits of STATUS, ERRINFO, RV and RES after the shared operations. -/

namespace Sys2Proof.Machine

theorem raiseEvent_eventBit (e f : Event) (w : Word) (s : State) :
    (raiseEvent e w s).eventBit f = (decide (f = e) || s.eventBit f) := by
  have hcode : f.code = e.code ↔ f = e := ⟨event_code_injective, congrArg Event.code⟩
  rw [eventBit_def, raiseEvent_bit, eventBit_def]
  by_cases hf : f = e <;> simp [hcode, hf]

theorem clearEvents_eventBit (v : Word) (s : State) (e : Event) :
    (clearEvents v s).eventBit e = (s.eventBit e && !v.getLsbD e.code) := by
  rw [eventBit_def, clearEvents_status, getLsbD_w1cWrite, decide_eq_true (event_code_range e), Bool.and_true,
    eventBit_def]

theorem latchCommand_eventBit (w : Word) (s : State) (e : Event) :
    (latchCommand w s).eventBit e = s.eventBit e := by
  have := event_code_range e
  rw [eventBit_def, latchCommand_bit, if_neg (by omega), if_neg (by omega), eventBit_def]

theorem acceptCommand_eventBit (i : Instr) (w : Word) (s : State) (e : Event) :
    (acceptCommand i w s).eventBit e = (usesUnseeded i s && decide (e = .warnUnseeded) || s.eventBit e) := by
  obtain ⟨hu, h⟩ | ⟨hu, h⟩ := acceptCommand_cases i w s
  · rw [h, raiseEvent_eventBit, latchCommand_eventBit, hu, Bool.true_and]
  · rw [h, latchCommand_eventBit, hu, Bool.false_and, Bool.false_or]

theorem acceptCommand_errinfo (i : Instr) (w : Word) (s : State) :
    (acceptCommand i w s).errinfo = if usesUnseeded i s then w else s.errinfo := by
  obtain ⟨hu, h⟩ | ⟨hu, h⟩ := acceptCommand_cases i w s <;> simp [h, hu]

theorem acceptCommand_seeded (i : Instr) (w : Word) (s : State) :
    (acceptCommand i w s).seeded32 = s.seeded32 ∧ (acceptCommand i w s).seeded64 = s.seeded64 := by
  obtain ⟨_, h⟩ | ⟨_, h⟩ := acceptCommand_cases i w s <;> simp [h]

theorem acceptCommand_result (i : Instr) (w : Word) (s : State) :
    (acceptCommand i w s).rv = false ∧ (acceptCommand i w s).res = s.res := by
  obtain ⟨_, h⟩ | ⟨_, h⟩ := acceptCommand_cases i w s <;> simp [h]

/-! ### Taking a turn off the schedule -/

@[simp] theorem State.popped_eventBit (s : State) (e : Event) : s.popped.eventBit e = s.eventBit e := rfl
@[simp] theorem State.popped_errinfo (s : State) : s.popped.errinfo = s.errinfo := rfl
@[simp] theorem State.popped_seeded32 (s : State) : s.popped.seeded32 = s.seeded32 := rfl
@[simp] theorem State.popped_seeded64 (s : State) : s.popped.seeded64 = s.seeded64 := rfl
@[simp] theorem State.popped_rv (s : State) : s.popped.rv = s.rv := rfl
@[simp] theorem State.popped_res (s : State) : s.popped.res = s.res := rfl

/-! ### The command in flight in a state of the invariant -/

theorem State.flightOk_popped {i : Instr} {s : State} (h : s.flightOk i) : s.popped.flightOk i := by
  cases i <;> exact h

theorem State.Inv.flightOk {s : State} {i : Instr} (h : s.Inv) (hb : s.busy = true) (hd : decode s.lcmd = .ok i) :
    s.flightOk i := by
  obtain ⟨j, hj, hf⟩ := h.inFlight hb
  obtain rfl : j = i := Except.ok.inj (hj.symm.trans hd)
  exact hf

end Sys2Proof.Machine
end

section
/-! SUPPORT. The statements on the event bits, ERRINFO, the SEEDED flags, RV and RES, the lane fields and the reserved
offsets (spec/10_state.md). -/

namespace Sys2Proof.Machine

/-- Settles O24, by the outcomes of a step. -/
theorem eventBitsChangeOnlyByEventClearAndReset : Obligations.EventBitsChangeOnlyByEventClearAndReset := by
  intro s s' h e
  cases stepOutcome_of_step h with
  | ran i seen _ _ hx => simp [seen.reset, seen.event, seen.clear, exec_event_bit hx]
  | reset seen hx => simp [seen.reset, hx, eventBit_def]
  | quiet seen hx =>
    obtain ⟨_, _, _, _, _, _, _, rfl⟩ := hx
    simp [seen.reset, seen.event, seen.clear, eventBit_def]
  | cleared v seen hx => simp [seen.reset, seen.event, seen.clear, hx, clearEvents_eventBit]
  | rejected f w seen hx =>
    obtain ⟨_, hx⟩ := hx
    have hbit : s'.eventBit e = (decide (e = f) || s.eventBit e) := hx ▸ raiseEvent_eventBit f e w _
    rw [seen.reset, seen.event, seen.clear, hbit]
    by_cases hf : e = f <;> simp [hf]
  | accepted i w _ _ seen hx =>
    rw [seen.reset, seen.event, seen.clear, hx, acceptCommand_eventBit, usesUnseeded_popped]
    cases usesUnseeded i s <;> by_cases hf : e = .warnUnseeded <;> simp [hf]

/-- Settles O25, by the outcomes of a step. -/
theorem errinfoHoldsTheLastRecordedWord : Obligations.ErrinfoHoldsTheLastRecordedWord := by
  refine ⟨fun s => rfl, fun s s' h => ?_⟩
  cases stepOutcome_of_step h with
  | ran i seen _ _ hx => simp [seen.reset, seen.event, exec_errinfo hx]
  | reset seen hx => simp [seen.reset, seen.event, hx]
  | quiet seen hx =>
    obtain ⟨_, _, _, _, _, _, _, rfl⟩ := hx
    simp [seen.reset, seen.event]
  | cleared v seen hx => simp [seen.reset, seen.event, hx]
  | rejected f w seen hx =>
    obtain ⟨_, rfl⟩ := hx
    by_cases hf : f = .errAccess
    · subst hf
      simp +contextual [seen.reset, seen.event]
    · simp +contextual [seen.reset, seen.event, hf]
  | accepted i w _ _ seen hx =>
    rw [hx, acceptCommand_errinfo, usesUnseeded_popped]
    cases hu : usesUnseeded i s <;> simp [seen.reset, seen.event, hu]

/-- Settles O28, by the outcomes of a step. -/
theorem seededFlagsChangeOnlyBySeedClearAndReset : Obligations.SeededFlagsChangeOnlyBySeedClearAndReset := by
  intro s s' h
  cases stepOutcome_of_step h with
  | ran i seen _ _ hx => simp [seen.reset, seen.engine, exec_seeded32 hx, exec_seeded64 hx]
  | reset seen hx => simp [seen.reset, hx, seeded32_def, seeded64_def]
  | quiet seen hx =>
    obtain ⟨_, _, _, _, _, _, _, rfl⟩ := hx
    simp [seen.reset, seen.engine, seeded32_def, seeded64_def]
  | cleared v seen hx => simp [seen.reset, seen.engine, hx]
  | rejected f w seen hx =>
    obtain ⟨_, rfl⟩ := hx
    rw [seen.reset, seen.engine]
    exact ⟨raiseEvent_seeded32 f w s.popped, raiseEvent_seeded64 f w s.popped⟩
  | accepted i w _ _ seen hx =>
    rw [seen.reset, seen.engine, hx]
    exact acceptCommand_seeded i w s.popped

/-! ### RV and RES -/

theorem returnsResult_iff (i : Instr) :
    returnsResult i = true ↔ i = .random32 ∨ i = .bounded32 ∨ i = .random64 ∨ i = .bounded64 := by
  cases i <;> simp [returnsResult]

/-- BOUNDED32's result at completion: the first draw not below the threshold, modulo the bound (40_datapath.md R109). -/
theorem bounded32_result {s t : State} (hf : s.flightOk .bounded32) (hb : s.bound32 ≠ 0#32) (hbusy : s.busy = true)
    (h : exec .bounded32 s = .next t) (ht : t.busy = false) :
    ∃ n, t.res = (s.g32.drawAt n % s.bound32).zeroExtend 64 ∧ threshold32 s.bound32 ≤ s.g32.drawAt n ∧
      ∀ k < n, s.g32.drawAt k < threshold32 s.bound32 := by
  obtain ⟨n, hrej, ⟨hacc, rfl⟩ | ⟨f, rfl⟩⟩ := execBounded32_of_flightOk hf hb h
  · exact ⟨n, rfl, hacc, hrej⟩
  · exact absurd (hbusy.symm.trans ht) (by decide)

theorem bounded64_result {s t : State} (hf : s.flightOk .bounded64) (hb : s.bound64 ≠ 0#64) (hbusy : s.busy = true)
    (h : exec .bounded64 s = .next t) (ht : t.busy = false) :
    ∃ n, t.res = draw64At s.lo s.hi n % s.bound64 ∧ threshold64 s.bound64 ≤ draw64At s.lo s.hi n ∧
      ∀ k < n, draw64At s.lo s.hi k < threshold64 s.bound64 := by
  obtain ⟨n, hrej, ⟨hacc, rfl⟩ | ⟨f, rfl⟩⟩ := execBounded64_of_flightOk hf hb h
  · exact ⟨n, rfl, hacc, hrej⟩
  · exact absurd (hbusy.symm.trans ht) (by decide)

theorem random32_result {s t : State} (h : exec .random32 s = .next t) :
    t.res = (xshRr32 s.g32.state).zeroExtend 64 := by
  cases h
  rfl

theorem random64_result {s t : State} (h : exec .random64 s = .next t) :
    t.res.extractLsb' 0 32 = xshRr32 s.lo.state ∧ t.res.extractLsb' 32 32 = xshRr32 s.hi.state := by
  have hres : t.res = xshRr32 s.hi.state ++ xshRr32 s.lo.state := by
    cases h
    exact concat32_eq_append _ _
  rw [hres]
  exact ⟨BitVec.extractLsb'_append_eq_right, BitVec.extractLsb'_append_eq_left⟩

/-- Settles O29, by the outcomes of a step; the engine's, by the command. -/
theorem rvTellsWhetherResHoldsAResult : Obligations.RvTellsWhetherResHoldsAResult := by
  intro s s' hinv h
  cases stepOutcome_of_step h with
  | ran i seen hb hd hx =>
    have hf := State.flightOk_popped (hinv.flightOk hb hd)
    refine ⟨by simp [seen.reset], by simp [seen.accept], fun j hj ht => ?_, fun j hj ht => ?_, by simp [seen.engine]⟩
    · obtain rfl : i = j := Option.some.inj (seen.engine.symm.trans hj)
      refine ⟨?_, fun h1 h2 h3 h4 => ?_, ?_, ?_, ?_, ?_, ?_, ?_⟩
      · rw [← returnsResult_iff, exec_rv_of_completion hx hb (hinv.noResult hb) ht]
      · have hr : returnsResult i = false := by
          rw [Bool.eq_false_iff, Ne, returnsResult_iff]
          tauto
        exact (exec_keeps_result hx (.inl hr)).2
      · rintro rfl; exact random32_result (s := s.popped) hx
      · rintro rfl; exact random64_result (s := s.popped) hx
      · rintro rfl h0; rw [execBounded32_zero (s := s.popped) h0 hx, completeWith_res]
      · rintro rfl hn; exact bounded32_result (s := s.popped) hf hn hb hx ht
      · rintro rfl h0; rw [execBounded64_zero (s := s.popped) h0 hx, completeWith_res]
      · rintro rfl hn; exact bounded64_result (s := s.popped) hf hn hb hx ht
    · exact exec_keeps_result (s := s.popped) hx (.inr ht)
  | reset seen hx => simp [seen.reset, seen.accept, seen.engine, hx, rv_def]
  | quiet seen hx =>
    obtain ⟨_, _, _, _, _, _, _, rfl⟩ := hx
    simp [seen.reset, seen.accept, seen.engine, rv_def]
  | cleared v seen hx => simp [seen.reset, seen.accept, seen.engine, hx]
  | rejected f w seen hx =>
    obtain ⟨_, hx⟩ := hx
    have hkept : s'.rv = s.rv ∧ s'.res = s.res := hx ▸ ⟨raiseEvent_rv f w _, rfl⟩
    simp [seen.reset, seen.accept, seen.engine, hkept]
  | accepted i w _ _ seen hx =>
    simp [seen.reset, seen.accept, seen.engine, hx, acceptCommand_result i w s.popped]

/-! ### Lane fields -/

theorem bounded32_lanes {s t : State} (hf : s.flightOk .bounded32) (h : exec .bounded32 s = .next t) :
    (∃ n, t.g32 = s.g32.steps n) ∧ t.lo = s.lo ∧ t.hi = s.hi := by
  by_cases hb : s.bound32 = 0#32
  · obtain rfl := execBounded32_zero hb h
    exact ⟨⟨0, rfl⟩, rfl, rfl⟩
  · obtain ⟨n, _, ⟨_, rfl⟩ | ⟨_, rfl⟩⟩ := execBounded32_of_flightOk hf hb h
    · exact ⟨⟨n + 1, rfl⟩, rfl, rfl⟩
    · exact ⟨⟨0, rfl⟩, rfl, rfl⟩

theorem bounded64_lanes {s t : State} (hf : s.flightOk .bounded64) (h : exec .bounded64 s = .next t) :
    t.g32 = s.g32 ∧ ∃ n, t.lo = s.lo.steps n ∧ t.hi = s.hi.steps n := by
  by_cases hb : s.bound64 = 0#64
  · obtain rfl := execBounded64_zero hb h
    exact ⟨rfl, 0, rfl, rfl⟩
  · obtain ⟨n, _, ⟨_, rfl⟩ | ⟨_, rfl⟩⟩ := execBounded64_of_flightOk hf hb h
    · exact ⟨rfl, n + 1, rfl, rfl⟩
    · exact ⟨rfl, 0, rfl, rfl⟩

/-- Settles O53, by the command in flight. -/
theorem commandsWriteTheLaneFieldsOfTheTable : Obligations.CommandsWriteTheLaneFieldsOfTheTable := by
  intro i s t hinv hb hd h
  have hf := hinv.flightOk hb hd
  cases i
  case bounded32 => simpa using bounded32_lanes hf h
  case bounded64 => simpa using bounded64_lanes hf h
  case random32 => cases h; simp [draw32_eq]
  case random64 => cases h; simp [draw64_eq]
  case advance32 => cases h; simp [jump32Regs_fresh_advance (.inr hf), jump]
  case retreat32 => cases h; simp [jump32Regs_fresh_retreat (.inr hf), jump]
  case advance64 => cases h; simp [jump64Regs_fresh_advance (.inr hf), jump]
  case retreat64 => cases h; simp [jump64Regs_fresh_retreat (.inr hf), jump]
  all_goals cases h; simp [Lane.zero]

/-! ### Reserved offsets -/

/-- Settles O13: no register lies at a reserved offset. -/
theorem reservedOffsetsReadZeroAndIgnoreWrites : Obligations.ReservedOffsetsReadZeroAndIgnoreWrites := by
  intro s off rest h8 hoff
  have hreg := regAt_reserved hoff
  refine ⟨fun h => ?_, fun v h => ?_⟩
  · rw [step_access h, hostAccess_legal_read h8]
    simp [readLegal, readUnspecified, windowValue, hreg, logRead]
  · rw [step_access h, hostAccess_legal_write h8]
    simp [writeLegal, hreg]

end Sys2Proof.Machine
end

section
/-! SUPPORT. Accesses that are not legal, and the statement on them (spec/20_memory.md R64, spec/60_exceptions.md
R165). -/

namespace Sys2Proof.Machine

/-- ErrAccess sets STATUS bit 11 and, alone of the events, leaves ERRINFO (60_exceptions.md R167). -/
theorem raiseEvent_errAccess (w : Word) (s : State) :
    raiseEvent .errAccess w s = { s with status := s.status ||| 0x800#64 } := rfl

theorem legalAccess_eq_false {off : Fin 256} {n : Nat} (h : n ≠ 8 ∨ off.val % 8 ≠ 0) :
    legalAccess off n = false := by
  rw [legalAccess, Bool.and_eq_false_iff, beq_eq_false_iff_ne, beq_eq_false_iff_ne]
  exact h

theorem hostAccess_illegal_read {off : Fin 256} {n : Nat} (h : n ≠ 8 ∨ off.val % 8 ≠ 0) (s : State) :
    hostAccess off n .read s = logRead off n 0#64 { s with status := s.status ||| 0x800#64 } := by
  simp [hostAccess, legalAccess_eq_false h, raiseEvent_errAccess]

theorem hostAccess_illegal_write {off : Fin 256} {n : Nat} (h : n ≠ 8 ∨ off.val % 8 ≠ 0) (v : Word) (s : State) :
    hostAccess off n (.write v) s = { s with status := s.status ||| 0x800#64 } := by
  simp [hostAccess, legalAccess_eq_false h, raiseEvent_errAccess]

/-- Settles O16: the access is not legal, so the host access is ErrAccess alone, and the log entry of a read. -/
theorem illegalAccessOnlySetsErrAccess : Obligations.IllegalAccessOnlySetsErrAccess := by
  intro s off n rest hn
  refine ⟨fun h => ?_, fun v h => ?_⟩
  · rw [step_access h, hostAccess_illegal_read hn, logRead]
  · rw [step_access h, hostAccess_illegal_write hn]

end Sys2Proof.Machine
end

section
/-! SUPPORT. The opcode map whole (spec/30_encoding.md R84), and the operand latches (spec/30_encoding.md R89). -/

namespace Sys2Proof.Machine

/-! ### The opcode map -/

theorem encode_eq_tableCommandWord (i : Instr) : encode i = tableCommandWord i := by
  cases i <;> rfl

theorem decode_encode (i : Instr) : decode (encode i) = .ok i := by
  cases i <;> rfl

theorem decode_eq_ok_iff (w : Word) (i : Instr) : decode w = .ok i ↔ w = encode i :=
  ⟨eq_encode_of_decode, fun h => h ▸ decode_encode i⟩

/-- The decoder rejects exactly the words it decodes to no command. -/
theorem decode_error_iff (w : Word) : (∃ e, decode w = .error e) ↔ ∀ i, decode w ≠ .ok i := by
  cases decode w with
  | ok i => simp
  | error e => simp

/-- Settles O2: a word decodes to a command exactly when the command encodes to it. -/
theorem decodeReturnsTheCommandWhoseWordEqualsW : Obligations.DecodeReturnsTheCommandWhoseWordEqualsW := by
  have hok (w : Word) (i : Instr) : decode w = .ok i ↔ w = tableCommandWord i := by
    rw [decode_eq_ok_iff, encode_eq_tableCommandWord]
  refine ⟨encode_eq_tableCommandWord, hok, fun w => ?_⟩
  simp only [decode_error_iff, ne_eq, hok]

/-! ### Acceptance loads the latches -/

theorem acceptCommand_latches (i : Instr) (w : Word) (s : State) :
    (acceptCommand i w s).lcmd = w ∧ (acceptCommand i w s).l0 = s.op0 ∧ (acceptCommand i w s).l1 = s.op1 ∧
      (acceptCommand i w s).l2 = s.op2 ∧ (acceptCommand i w s).l3 = s.op3 := by
  obtain ⟨_, h⟩ | ⟨_, h⟩ := acceptCommand_cases i w s <;> simp [h]

/-- A step that accepts a word is the acceptance of the command it decodes to. -/
theorem step_of_acceptNow {s s' : State} {w : Word} (ha : s.acceptNow = some w) (h : step s = .next s') :
    ∃ i, decode w = .ok i ∧ s' = acceptCommand i w s.popped := by
  cases stepOutcome_of_step h with
  | accepted i v _ hd seen hx =>
    obtain rfl : v = w := Option.some.inj (seen.accept.symm.trans ha)
    exact ⟨i, hd, hx⟩
  | ran _ seen => cases seen.accept.symm.trans ha
  | reset seen => cases seen.accept.symm.trans ha
  | quiet seen => cases seen.accept.symm.trans ha
  | cleared _ seen => cases seen.accept.symm.trans ha
  | rejected _ _ seen => cases seen.accept.symm.trans ha

/-! ### The operand registers and a command in flight -/

/-- `s` with other values in OP0 to OP3. -/
def State.withOperands (s : State) (a b c d : Word) : State := { s with op0 := a, op1 := b, op2 := c, op3 := d }

section
variable {s t : State} (a b c d : Word)

@[simp] theorem State.withOperands_bound32 : (s.withOperands a b c d).bound32 = s.bound32 := rfl
@[simp] theorem State.withOperands_bound64 : (s.withOperands a b c d).bound64 = s.bound64 := rfl
@[simp] theorem State.withOperands_bounded32Work : (s.withOperands a b c d).bounded32Work = s.bounded32Work := rfl
@[simp] theorem State.withOperands_bounded64Work : (s.withOperands a b c d).bounded64Work = s.bounded64Work := rfl

/-- A draw of BOUNDED32 goes the same way, whatever OP0 to OP3 hold. -/
theorem execBounded32_withOperands (h : execBounded32 s = .next t) :
    execBounded32 (s.withOperands a b c d) = .next (t.withOperands a b c d) := by
  unfold execBounded32 at h ⊢
  rw [State.withOperands_bound32, State.withOperands_bounded32Work]
  by_cases hb : s.bound32 = 0#32
  · rw [if_pos hb] at h ⊢
    cases h; rfl
  · rw [if_neg hb] at h ⊢
    dsimp only at h ⊢
    split at h <;> rename_i hd
    · rw [if_pos hd]; cases h; rfl
    · rw [if_neg hd]; cases h; rfl

theorem execBounded64_withOperands (h : execBounded64 s = .next t) :
    execBounded64 (s.withOperands a b c d) = .next (t.withOperands a b c d) := by
  unfold execBounded64 at h ⊢
  rw [State.withOperands_bound64, State.withOperands_bounded64Work]
  by_cases hb : s.bound64 = 0#64
  · rw [if_pos hb] at h ⊢
    cases h; rfl
  · rw [if_neg hb] at h ⊢
    dsimp only at h ⊢
    split at h <;> rename_i hd
    · rw [if_pos hd]; cases h; rfl
    · rw [if_neg hd]; cases h; rfl

/-- Only BOUNDED branches; every other command's engine step is one update, whose values come from the latches, the
lanes and the working values. -/
theorem exec_withOperands {i : Instr} (h : exec i s = .next t) :
    exec i (s.withOperands a b c d) = .next (t.withOperands a b c d) := by
  cases i
  case bounded32 => exact execBounded32_withOperands a b c d h
  case bounded64 => exact execBounded64_withOperands a b c d h
  all_goals cases h; rfl

end

theorem step_legal_write {s : State} {off : Fin 256} {v : Word} {rest : List Turn} (h8 : off.val % 8 = 0)
    (h : s.schedule = .access { off := off, size := 8, dir := .write v } :: rest) :
    step s = .next (writeLegal off v { s with schedule := rest }) := by
  rw [step_access h, hostAccess_legal_write h8]

/-- Settles O23, by the outcome of an accepting step, the commands' engine steps, and the writes at 0x20 to 0x38 (which
store into their register with BUSY 0 as well). -/
theorem commandsReadOnlyTheLatches : Obligations.CommandsReadOnlyTheLatches := by
  refine ⟨fun s s' w ha h => ?_, fun i s t a b c d h => exec_withOperands a b c d h, fun s v rest _ => ?_⟩
  · obtain ⟨i, _, rfl⟩ := step_of_acceptNow ha h
    exact acceptCommand_latches i w s.popped
  · exact ⟨step_legal_write rfl, step_legal_write rfl, step_legal_write rfl, step_legal_write rfl⟩

end Sys2Proof.Machine
end

section
/-! SUPPORT. The 32-bit rotation bit by bit (spec/40_datapath.md R102). -/

namespace Sys2Proof.Machine

@[simp] theorem rotr32_zero (x : Word32) : rotr32 x 0 = x := rfl

/-- The shifts of R102 are the library's rotation; at r = 0, a case of its own in the model, the left shift is 0. -/
theorem rotr32_eq_rotateRight (x : Word32) {r : Nat} (hr : r < 32) : rotr32 x r = x.rotateRight r := by
  rw [BitVec.rotateRight_def, Nat.mod_eq_of_lt hr]
  by_cases h0 : r = 0
  · rw [h0, rotr32_zero, BitVec.ushiftRight_zero, BitVec.shiftLeft_eq_zero (by rfl), BitVec.or_zero]
  · rw [rotr32, if_neg h0]

/-- Below 32 - r bit i comes from bit i + r; from there on the source wraps around to bit i + r - 32. -/
theorem getLsbD_rotr32 (x : Word32) {r i : Nat} (hr : r < 32) (hi : i < 32) :
    (rotr32 x r).getLsbD i = x.getLsbD ((i + r) % 32) := by
  rw [rotr32_eq_rotateRight x hr, BitVec.getLsbD_rotateRight, Nat.mod_eq_of_lt hr]
  by_cases hw : i < 32 - r
  · have hsrc : (i + r) % 32 = r + i := by omega
    simp [hw, hsrc]
  · have hsrc : (i + r) % 32 = i - (32 - r) := by omega
    simp [hw, hi, hsrc]

/-- Settles O31, by the library's rotation; the rule's example is evaluated. -/
theorem rotationTakesBitIPlusRMod32 : Obligations.RotationTakesBitIPlusRMod32 :=
  ⟨fun x _ _ hr hi => getLsbD_rotr32 x hr hi, rotr32_zero, by decide⟩

end Sys2Proof.Machine
end

section
/-! SUPPORT. CMD writes that are rejected, and the statements on them (spec/60_exceptions.md R162 to R164). -/

namespace Sys2Proof.Machine

/-! ### A CMD write and its three rejections (spec/30_encoding.md R92) -/

section
variable {s : State} {w : Word}

theorem submitCommand_busy (hb : s.busy = true) : submitCommand w s = raiseEvent .errOverrun w s := by
  rw [submitCommand, if_pos hb]

theorem submitCommand_illegal {e : IllegalWord} (hb : s.busy = false) (hd : decode w = .error e) :
    submitCommand w s = raiseEvent .errIllegal w s := by
  simp [submitCommand, hb, hd]

theorem submitCommand_wide {i : Instr} (hb : s.busy = false) (hd : decode w = .ok i)
    (ho : operandTooWide i s = true) : submitCommand w s = raiseEvent .errOperand w s := by
  simp [submitCommand, hb, hd, ho]

/-- Every event but ErrAccess sets its STATUS bit and ERRINFO, and nothing else (60_exceptions.md R167, R169). -/
theorem raiseEvent_of_ne_errAccess {e : Event} (he : e ≠ .errAccess) :
    raiseEvent e w s = { s with status := s.status ||| (1#64 <<< e.code), errinfo := w } := by
  rw [raiseEvent, if_neg he, setBit, if_pos rfl]

/-- The step of a CMD write whose word is rejected with event `e`. -/
theorem step_of_rejection {rest : List Turn} {e : Event}
    (h : s.schedule = .access { off := 0x18, size := 8, dir := .write w } :: rest)
    (hr : submitCommand w { s with schedule := rest } = raiseEvent e w { s with schedule := rest })
    (he : e ≠ .errAccess) :
    step s = .next { s with schedule := rest, status := s.status ||| (1#64 <<< e.code), errinfo := w } :=
  calc step s
    _ = .next (submitCommand w { s with schedule := rest }) := step_legal_write rfl h
    _ = _ := by rw [hr, raiseEvent_of_ne_errAccess he]

end

/-! ### The words that R85 calls illegal -/

/-- The word of a command has none of the bad fields of 30_encoding.md R85. -/
theorem encode_fields_legal (i : Instr) :
    (encode i).extractLsb' 5 59 = 0#59 ∧ (encode i).extractLsb' 0 4 ≠ 0#4 ∧
      ((encode i).extractLsb' 0 4).toNat < 7 := by
  cases i <;> decide

/-- A word with a bad field does not decode, since every word that decodes is some command's word. -/
theorem decode_error_of_bad_field {w : Word}
    (h : w.extractLsb' 5 59 ≠ 0#59 ∨ w.extractLsb' 0 4 = 0#4 ∨ 7 ≤ (w.extractLsb' 0 4).toNat) :
    ∃ e, decode w = .error e := by
  refine (decode_error_iff w).mpr fun i hd => ?_
  obtain ⟨hrsv, hzero, hseven⟩ := encode_fields_legal i
  rw [eq_encode_of_decode hd] at h
  rcases h with h | h | h
  · exact h hrsv
  · exact hzero h
  · exact absurd hseven (Nat.not_lt.mpr h)

/-! ### The statements -/

/-- Settles O20: a word with a bad field does not decode, and a word that does not decode raises ErrIllegal. -/
theorem illegalWordExecutesNothing : Obligations.IllegalWordExecutesNothing := by
  intro s w rest h hb hw
  obtain ⟨e, hd⟩ := decode_error_of_bad_field hw
  exact step_of_rejection h (submitCommand_illegal hb hd) (by decide)

/-- Settles O19: BUSY is checked first, so ErrOverrun is raised whatever the word is. -/
theorem overrunLosesTheWord : Obligations.OverrunLosesTheWord := by
  intro s w rest h hb
  exact step_of_rejection h (submitCommand_busy hb) (by decide)

/-- Settles O21: 4 is BOUNDED32's word, and OP0[63:32] is the operand check that BOUNDED32 alone has. -/
theorem wideBoundIsRejected : Obligations.WideBoundIsRejected := by
  intro s rest h hb hop
  have hd : decode 0x4#64 = .ok .bounded32 := decode_encode .bounded32
  have ho : operandTooWide .bounded32 { s with schedule := rest } = true := bne_iff_ne.mpr hop
  exact step_of_rejection h (submitCommand_wide hb hd ho) (by decide)

end Sys2Proof.Machine
end

section
/-! SUPPORT. Repeated LCG steps and the jump-ahead law (spec/40_datapath.md R110, R111). -/

namespace Sys2Proof.Machine

/-! ### Repeated LCG steps -/

/-- n LCG steps as one affine map. -/
theorem lcgStep_iterate (s c : Word) (n : Nat) :
    (fun x => lcgStep x c)^[n] s =
      s * Config.multiplier ^ n + c * ∑ j ∈ Finset.range n, Config.multiplier ^ j := by
  induction n with
  | zero => simp
  | succ n ih =>
    rw [Function.iterate_succ_apply', ih, lcgStep, geom_sum_succ]
    ring

/-! ### The jump-ahead loop as steps -/

/-- The current map after i iterations is 2^i steps. -/
theorem JumpRegs.run_load_current (delta c x : Word) (i : Nat) :
    x * ((JumpRegs.load delta c).run i).curMult + ((JumpRegs.load delta c).run i).curPlus =
      (fun y => lcgStep y c)^[2 ^ i] x := by
  induction i generalizing x with
  | zero => exact congrArg (· + c) (mul_comm x Config.multiplier)
  | succ i ih => rw [JumpRegs.run_succ, JumpRegs.iterate_current, ih, ih,
      ← Function.iterate_add_apply, pow_succ, mul_two]

/-- The accumulated map after i iterations is the steps that the low i bits of delta count. -/
theorem JumpRegs.run_load_apply (delta c x : Word) (i : Nat) :
    ((JumpRegs.load delta c).run i).apply x = (fun y => lcgStep y c)^[delta.toNat % 2 ^ i] x := by
  induction i with
  | zero => simp [JumpRegs.run, JumpRegs.load, JumpRegs.apply, Nat.mod_one]
  | succ i ih =>
    have hbit : ((JumpRegs.load delta c).run i).delta.getLsbD 0 = delta.toNat.testBit i := by
      rw [JumpRegs.run_delta, BitVec.getLsbD_ushiftRight]
      rfl
    rw [JumpRegs.run_succ, JumpRegs.iterate_apply, hbit, JumpRegs.run_load_current, ih, Nat.mod_pow_succ,
      ← Nat.toNat_testBit]
    cases delta.toNat.testBit i
    · simp
    · rw [if_pos rfl, ← Function.iterate_add_apply, Bool.toNat_true, mul_one, add_comm]

/-- The jump by delta is delta LCG steps (40_datapath.md R111). -/
theorem jump_eq_iterate (s delta c : Word) : jump s delta c = (fun x => lcgStep x c)^[delta.toNat] s := by
  rw [jump, JumpRegs.run_load_apply, Nat.mod_eq_of_lt delta.isLt]

/-- The accumulated map, at 0 and at 1, in closed form. -/
theorem JumpRegs.run_load_closed (delta c : Word) :
    ((JumpRegs.load delta c).run 64).accMult = Config.multiplier ^ delta.toNat ∧
    ((JumpRegs.load delta c).run 64).accPlus = c * ∑ j ∈ Finset.range delta.toNat, Config.multiplier ^ j := by
  have hmap (x : Word) : x * ((JumpRegs.load delta c).run 64).accMult + ((JumpRegs.load delta c).run 64).accPlus =
      x * Config.multiplier ^ delta.toNat + c * ∑ j ∈ Finset.range delta.toNat, Config.multiplier ^ j :=
    (jump_eq_iterate x delta c).trans (lcgStep_iterate x c _)
  have hplus := hmap 0
  rw [zero_mul, zero_mul, zero_add, zero_add] at hplus
  have hmult := hmap 1
  rw [hplus, one_mul, one_mul] at hmult
  exact ⟨add_right_cancel hmult, hplus⟩

/-- Iterations with no delta remaining accumulate nothing. -/
theorem JumpRegs.run_of_delta_zero (n : Nat) {r : JumpRegs} (h : r.delta = 0#64) :
    (r.run n).accMult = r.accMult ∧ (r.run n).accPlus = r.accPlus := by
  induction n generalizing r with
  | zero => exact ⟨rfl, rfl⟩
  | succ n ih =>
    obtain ⟨hmult, hplus⟩ := ih (r := r.iterate) (by simp [h])
    rw [JumpRegs.run, hmult, hplus]
    simp [JumpRegs.iterate, h]

/-- Settles O36: the loop's two maps by induction on the iterations, the closed forms from the jump as one affine
map. -/
theorem jumpEqualsRepeatedSteps : Obligations.JumpEqualsRepeatedSteps :=
  ⟨jump_eq_iterate,
    fun delta c x i _ => ⟨JumpRegs.run_load_current delta c x i, JumpRegs.run_load_apply delta c x i⟩,
    JumpRegs.run_load_closed, fun _ n h => JumpRegs.run_of_delta_zero n h⟩

end Sys2Proof.Machine
end

section
/-! SUPPORT. The period of the LCG with an odd increment, and retreat (spec/40_datapath.md R112, R113). -/

namespace Sys2Proof.Machine

/-! ### Powers of two in the sum of the multiplier's powers -/

theorem geomSum_double (a m : Nat) :
    ∑ j ∈ Finset.range (m + m), a ^ j = (∑ j ∈ Finset.range m, a ^ j) * (a ^ m + 1) := by
  rw [Finset.sum_range_add]
  simp only [pow_add, ← Finset.mul_sum]
  ring

/-- For a = 1 modulo 4 the sum of the first n powers of a has as many factors 2 as n: doubling n multiplies the sum by
a^m + 1, which is 2 times an odd number. -/
theorem two_pow_dvd_geomSum_iff {a : Nat} (ha : a % 4 = 1) (k n : Nat) :
    2 ^ k ∣ ∑ j ∈ Finset.range n, a ^ j ↔ 2 ^ k ∣ n := by
  have hpow (m : Nat) : a ^ m % 4 = 1 := by rw [Nat.pow_mod, ha, one_pow]; rfl
  have hodd (m : Nat) : (∑ j ∈ Finset.range m, a ^ j) % 2 = m % 2 := by
    rw [Finset.sum_nat_mod, Finset.sum_congr rfl fun j _ => show a ^ j % 2 = 1 by have := hpow j; omega]
    simp
  induction k generalizing n with
  | zero => simp
  | succ k ih =>
    obtain ⟨m, rfl | rfl⟩ := n.even_or_odd'
    · obtain ⟨q, hq⟩ : ∃ q, a ^ m + 1 = (2 * q + 1) * 2 := ⟨a ^ m / 4, by have := hpow m; omega⟩
      have hcop : Nat.Coprime (2 ^ k) (2 * q + 1) := (odd_two_mul_add_one q).coprime_two_left.pow_left k
      rw [two_mul, geomSum_double, hq, ← mul_assoc, pow_succ, ← mul_two, Nat.mul_dvd_mul_iff_right two_pos,
        Nat.mul_dvd_mul_iff_right two_pos, hcop.dvd_mul_right]
      exact ih m
    · have hno (x : Nat) (hx : x % 2 = 1) : ¬ 2 ^ (k + 1) ∣ x := fun hd => by
        have := Nat.dvd_trans (dvd_pow_self 2 k.succ_ne_zero) hd; omega
      exact iff_of_false (hno _ (by rw [hodd]; omega)) (hno _ (by omega))

/-! ### The period -/

/-- How far n steps move a state. -/
theorem lcgStep_iterate_sub (s c : Word) (n : Nat) :
    (fun x => lcgStep x c)^[n] s - s =
      (∑ j ∈ Finset.range n, Config.multiplier ^ j) * ((Config.multiplier - 1) * s + c) := by
  have hgeom := geom_sum_mul Config.multiplier n
  rw [lcgStep_iterate, mul_add, ← mul_assoc, hgeom]
  ring

theorem toNat_odd {w : Word} : w.getLsbD 0 = true ↔ w.toNat % 2 = 1 := by
  rw [BitVec.getLsbD, Nat.testBit_zero, decide_eq_true_eq]

/-- A product with an odd factor is 0 only if the other factor is. -/
theorem mul_odd_eq_zero_iff {x u : Word} (hu : u.getLsbD 0 = true) : x * u = 0 ↔ x = 0 := by
  refine ⟨fun h => ?_, fun h => by rw [h, zero_mul]⟩
  have hcop : Nat.Coprime (2 ^ 64) u.toNat :=
    (Nat.odd_iff.2 (toNat_odd.1 hu)).coprime_two_left.pow_left 64
  have hd : 2 ^ 64 ∣ x.toNat * u.toNat := by
    rw [Nat.dvd_iff_mod_eq_zero, ← BitVec.toNat_mul, h]; rfl
  have hx := Nat.eq_zero_of_dvd_of_lt (hcop.dvd_of_dvd_mul_right hd) x.isLt
  exact BitVec.eq_of_toNat_eq hx

theorem geomSum_multiplier_eq_zero_iff (n : Nat) :
    ∑ j ∈ Finset.range n, Config.multiplier ^ j = 0 ↔ 2 ^ 64 ∣ n := by
  have hcast : ∑ j ∈ Finset.range n, Config.multiplier ^ j =
      ((∑ j ∈ Finset.range n, 6364136223846793005 ^ j : Nat) : Word) := by
    push_cast; rfl
  rw [hcast, ← two_pow_dvd_geomSum_iff (a := 6364136223846793005) rfl 64 n, BitVec.natCast_eq_ofNat,
    Nat.dvd_iff_mod_eq_zero, ← BitVec.toNat_ofNat]
  exact BitVec.toNat_inj.symm

section
variable {c : Word} (hc : c.getLsbD 0 = true)
include hc

/-- With an odd increment n steps return a state exactly when 2^64 divides n (40_datapath.md R112). -/
theorem lcgStep_iterate_eq_self_iff (s : Word) (n : Nat) : (fun x => lcgStep x c)^[n] s = s ↔ 2 ^ 64 ∣ n := by
  have hu : ((Config.multiplier - 1) * s + c).getLsbD 0 = true := by
    rw [toNat_odd] at hc ⊢
    have hm : (Config.multiplier - 1).toNat % 2 = 0 := rfl
    have := Nat.mul_mod (Config.multiplier - 1).toNat s.toNat 2
    rw [hm, zero_mul] at this
    rw [BitVec.toNat_add, BitVec.toNat_mul]
    omega
  rw [← sub_eq_zero, lcgStep_iterate_sub, mul_odd_eq_zero_iff hu, geomSum_multiplier_eq_zero_iff]

theorem lcgStep_iterate_mod (s : Word) (n : Nat) :
    (fun x => lcgStep x c)^[n % 2 ^ 64] s = (fun x => lcgStep x c)^[n] s :=
  Function.IsPeriodicPt.iterate_mod_apply ((lcgStep_iterate_eq_self_iff hc s _).2 dvd_rfl) n

theorem jump_jump (s a b : Word) : jump (jump s a c) b c = jump s (a + b) c := by
  rw [jump_eq_iterate, jump_eq_iterate, jump_eq_iterate, ← Function.iterate_add_apply, BitVec.toNat_add,
    lcgStep_iterate_mod hc, add_comm]

/-- d steps after the jump by 2^64 - d make whole periods. -/
theorem lcgStep_iterate_jump_back (s : Word) {d : Nat} (hd : d < 2 ^ 64) :
    (fun x => lcgStep x c)^[d] (jump s (BitVec.ofNat 64 (2 ^ 64 - d)) c) = s := by
  rw [jump_eq_iterate, BitVec.toNat_ofNat, lcgStep_iterate_mod hc, ← Function.iterate_add_apply,
    lcgStep_iterate_eq_self_iff hc, Nat.add_sub_cancel' hd.le]

end

/-- Settles O37, by the number of factors 2 in the sum of the multiplier's powers. -/
theorem oddIncrementHasFullPeriod : Obligations.OddIncrementHasFullPeriod := fun _ hc =>
  ⟨fun s => (lcgStep_iterate_eq_self_iff hc s _).2 dvd_rfl,
    fun s n hn hlt h => absurd (Nat.le_of_dvd hn ((lcgStep_iterate_eq_self_iff hc s n).1 h)) (Nat.not_le.2 hlt),
    jump_jump hc, fun s _ hd => lcgStep_iterate_jump_back hc s hd⟩

/-! ### Retreat -/

@[simp] theorem jump_zero (s c : Word) : jump s 0#64 c = s := by rw [jump_eq_iterate]; rfl

/-- On a seeded or an unseeded lane the jump by -d undoes the jump by d. -/
theorem jump_neg_jump {s c : Word} (h : c.getLsbD 0 = true ∨ s = 0#64 ∧ c = 0#64) (d : Word) :
    jump (jump s d c) (-d) c = s := by
  obtain hc | ⟨rfl, rfl⟩ := h
  · rw [jump_jump hc, add_neg_cancel]; exact jump_zero s c
  · rw [jump_zero_zero, jump_zero_zero]

/-- The same in the other order. -/
theorem jump_jump_neg {s c : Word} (h : c.getLsbD 0 = true ∨ s = 0#64 ∧ c = 0#64) (d : Word) :
    jump (jump s (-d) c) d c = s := by
  have := jump_neg_jump h (-d)
  rwa [neg_neg] at this

/-! ### Seeding (spec/40_datapath.md R106) -/

section
variable (l : Lane) (s q : Word)

theorem seedLane_inc : (seedLane l s q).inc = (q <<< 1) ||| 1#64 := rfl

/-- Seeding leaves the lane one step after the state inc + s. -/
theorem seedLane_state : (seedLane l s q).state = lcgStep ((seedLane l s q).inc + s) (seedLane l s q).inc := by
  unfold seedLane lcgStep
  simp

theorem seedLane_inc_odd : (seedLane l s q).inc.getLsbD 0 = true := by
  rw [seedLane_inc, BitVec.getLsbD_or]
  simp

/-- The increment is made of the low 63 bits of q. -/
theorem shiftLeft_one_or_one_eq_append : (q <<< 1) ||| 1#64 = q.extractLsb' 0 63 ++ 1#1 := by
  refine BitVec.eq_of_getLsbD_eq fun j hj => ?_
  rw [BitVec.getLsbD_append]
  cases j with
  | zero => simp
  | succ j => simp [hj, show j < 63 by omega, show j < 64 by omega]

theorem retreat_seedLane :
    retreat (seedLane l s q).state 1#64 (seedLane l s q).inc = (seedLane l s q).inc + s := by
  have hstep (x c : Word) : lcgStep x c = jump x 1#64 c := (jump_eq_iterate x 1#64 c).symm
  rw [seedLane_state, hstep]
  exact jump_neg_jump (.inl (seedLane_inc_odd l s q)) 1#64

end

/-- Settles O35: seeding sets both fields, the state one step after inc + s. -/
theorem seedingHasItsClosedForm : Obligations.SeedingHasItsClosedForm := by
  refine ⟨fun _ _ _ _ => ⟨rfl, rfl⟩, fun l s q => ⟨rfl, seedLane_state l s q, seedLane_state l s q⟩,
    fun l s q q' => ⟨seedLane_inc_odd l s q, fun hq => ?_⟩,
    fun l s q => ⟨Lane.ext (seedLane_state l s q).symm rfl, retreat_seedLane l s q⟩,
    fun _ => show seedLane .zero 1#64 1#64 = _ by decide⟩
  simp only [seedLane, shiftLeft_one_or_one_eq_append, hq]

/-- Settles O38; the example retreats from the seeded state to the one before it, inc + s = 3 + 1. -/
theorem retreatUndoesTheJump : Obligations.RetreatUndoesTheJump :=
  ⟨fun _ _ _ => rfl, fun _ d _ h => jump_neg_jump h d, fun s c => ⟨jump_zero s c, rfl⟩,
    fun l => retreat_seedLane l 1#64 1#64⟩

/-! ### Streams kept distinct (spec/40_datapath.md R114, R115) -/

theorem toNat_and_mask63 (q : Word) : (q &&& mask63).toNat = (q.extractLsb' 0 63).toNat := by
  have hmask : mask63.toNat = 2 ^ 63 - 1 := rfl
  rw [BitVec.toNat_and, hmask, Nat.and_two_pow_sub_one_eq_mod, BitVec.extractLsb'_toNat, Nat.shiftRight_zero]

theorem and_mask63_eq_iff (q q' : Word) : q &&& mask63 = q' &&& mask63 ↔ q.extractLsb' 0 63 = q'.extractLsb' 0 63 := by
  rw [← BitVec.toNat_inj, ← BitVec.toNat_inj, toNat_and_mask63, toNat_and_mask63]

theorem increments_eq_iff (q q' : Word) :
    (q <<< 1) ||| 1#64 = (q' <<< 1) ||| 1#64 ↔ q.extractLsb' 0 63 = q'.extractLsb' 0 63 := by
  rw [shiftLeft_one_or_one_eq_append, shiftLeft_one_or_one_eq_append]
  refine ⟨fun h => ?_, fun h => by rw [h]⟩
  have hl := congrArg (BitVec.extractLsb' 1 63) h
  rwa [BitVec.extractLsb'_append_eq_left, BitVec.extractLsb'_append_eq_left] at hl

theorem distinctSeq2_eq (q1 q2 : Word) :
    distinctSeq2 q1 q2 = if q1.extractLsb' 0 63 = q2.extractLsb' 0 63 then ~~~q2 else q2 := by
  simp only [distinctSeq2, and_mask63_eq_iff]

/-- Complementing changes the low 63 bits. -/
theorem extractLsb'_not_ne (q : Word) : q.extractLsb' 0 63 ≠ (~~~q).extractLsb' 0 63 := by
  intro h
  have := congrArg (BitVec.getLsbD · 0) h
  simp at this

theorem distinctSeq2_increments_ne (q1 q2 : Word) :
    (q1 <<< 1) ||| 1#64 ≠ (distinctSeq2 q1 q2 <<< 1) ||| 1#64 := by
  rw [Ne, increments_eq_iff, distinctSeq2_eq]
  split
  · rename_i h; rw [h]; exact extractLsb'_not_ne q2
  · assumption

/-- Settles O39: two increments are equal exactly when the low 63 bits of their sequences are. -/
theorem secondStreamIsKeptDistinct : Obligations.SecondStreamIsKeptDistinct := fun q1 q2 =>
  ⟨fun h => by rw [distinctSeq2_eq, if_pos h], fun h => by rw [distinctSeq2_eq, if_neg h],
    distinctSeq2_increments_ne q1 q2⟩

end Sys2Proof.Machine
end

section
/-! SUPPORT. Thresholds (spec/40_datapath.md R107, R108), the output permutation bit by bit (R101), and values of the
draws that BOUNDED's termination rests on. -/

namespace Sys2Proof.Machine

/-! ### Thresholds, at any width -/

section
variable {w : Nat} {b : BitVec w} (hb : b ≠ 0#w)
include hb

theorem toNat_pos_of_ne_zero : 0 < b.toNat :=
  Nat.pos_of_ne_zero fun h => hb (BitVec.eq_of_toNat_eq h)

theorem toNat_neg_of_ne_zero : (-b).toNat = 2 ^ w - b.toNat := by
  rw [BitVec.toNat_neg, Nat.mod_eq_of_lt (Nat.sub_lt (Nat.two_pow_pos w) (toNat_pos_of_ne_zero hb))]

theorem toNat_neg_umod : ((-b) % b).toNat = 2 ^ w % b.toNat := by
  rw [BitVec.toNat_umod, toNat_neg_of_ne_zero hb, ← Nat.mod_eq_sub_mod b.isLt.le]

theorem neg_umod_lt : (-b) % b < b := BitVec.umod_lt _ ((BitVec.pos_iff_ne_zero b).2 hb)

theorem neg_umod_eq_zero_iff_dvd : (-b) % b = 0#w ↔ b.toNat ∣ 2 ^ w := by
  rw [← BitVec.toNat_inj, toNat_neg_umod hb, BitVec.toNat_zero, Nat.dvd_iff_mod_eq_zero]

/-- A threshold is 0 exactly for the powers of two. -/
theorem neg_umod_eq_zero_iff : (-b) % b = 0#w ↔ ∃ k, b.toNat = 2 ^ k := by
  rw [neg_umod_eq_zero_iff_dvd hb, Nat.dvd_prime_pow Nat.prime_two]
  refine ⟨fun ⟨k, _, hk⟩ => ⟨k, hk⟩, fun ⟨k, hk⟩ => ⟨k, ?_, hk⟩⟩
  exact ((Nat.pow_lt_pow_iff_right Nat.one_lt_two).1 (hk ▸ b.isLt)).le

end

/-- Settles O33, by the thresholds at any width. -/
theorem threshold32IsTwoTo32ModTheBound : Obligations.Threshold32IsTwoTo32ModTheBound := by
  refine ⟨fun b hb => ⟨rfl, ?_, toNat_neg_umod hb, neg_umod_lt hb, neg_umod_eq_zero_iff_dvd hb,
    neg_umod_eq_zero_iff hb⟩, by decide⟩
  rw [threshold32, BitVec.toNat_umod, toNat_neg_of_ne_zero hb]

/-- Settles O34, by the thresholds at any width. -/
theorem threshold64IsTwoTo64ModTheBound : Obligations.Threshold64IsTwoTo64ModTheBound :=
  ⟨fun _ hb => ⟨rfl, toNat_neg_umod hb, neg_umod_lt hb, neg_umod_eq_zero_iff hb⟩, by decide⟩

/-! ### The output permutation -/

theorem toNat_rotation (old : Word) : (old >>> 59).toNat = (old.extractLsb' 59 5).toNat := by
  rw [BitVec.toNat_ushiftRight, BitVec.extractLsb'_toNat, Nat.mod_eq_of_lt]
  rw [Nat.shiftRight_eq_div_pow]
  omega

/-- Settles O32: a bit of the rotated value is a bit of `old ^ (old >> 18)` from bit 27 on. -/
theorem outputBitsAreBits58To27Rotated : Obligations.OutputBitsAreBits58To27Rotated := by
  intro old i hi
  have hr : (old.extractLsb' 59 5).toNat < 32 := (old.extractLsb' 59 5).isLt
  have hm : (i + (old.extractLsb' 59 5).toNat) % 32 < 32 := Nat.mod_lt _ (by decide)
  rw [xshRr32, toNat_rotation, getLsbD_rotr32 _ hr hi, trunc32, BitVec.truncate_eq_setWidth, BitVec.getLsbD_setWidth,
    decide_eq_true hm, Bool.true_and, BitVec.getLsbD_ushiftRight, BitVec.getLsbD_xor, BitVec.getLsbD_ushiftRight,
    Nat.add_comm 18]

end Sys2Proof.Machine
end

section
/-! SUPPORT. One engine step of each command as an equation, and the statements on single commands
(spec/41_pcg32.md R121 to R126, spec/42_pcg64.md R140 to R145). -/

namespace Sys2Proof.Machine

/-! ### Halves of a 64-bit value -/

theorem zext64_eq_append (v : Word32) : zext64 v = 0#32 ++ v := by
  rw [zext64, BitVec.zeroExtend_eq_setWidth, BitVec.setWidth_eq_append (by decide)]
  rfl

/-- A value is its two halves put together. -/
theorem eq_concat32_of_halves {r : Word} {h l : Word32} (hl : r.extractLsb' 0 32 = l) (hh : r.extractLsb' 32 32 = h) :
    r = concat32 h l := by
  rw [concat32_eq_append, ← hl, ← hh, BitVec.extractLsb'_append_extractLsb'_eq_extractLsb' (by rfl)]
  exact BitVec.extractLsb'_eq_self.symm

theorem bound32_eq_extractLsb' (s : State) : s.bound32 = s.l0.extractLsb' 0 32 := by
  rw [State.bound32, trunc32, BitVec.truncate_eq_setWidth, BitVec.setWidth_eq_extractLsb' (by decide)]

/-! ### CLEAR, SEED and RANDOM -/

/-- Settles O40: the two bits that CLEAR32 and its completion clear are those of 5. -/
theorem clear32ZeroesG32 : Obligations.Clear32ZeroesG32 := by
  intro s
  have hst : (s.status &&& ~~~0x4#64) &&& ~~~0x1#64 = s.status &&& ~~~0x5#64 := BitVec.and_assoc ..
  rw [← hst]
  rfl

/-- Settles O46: the two bits that CLEAR64 and its completion clear are those of 9. -/
theorem clear64ZeroesBothLanes : Obligations.Clear64ZeroesBothLanes := by
  intro s
  have hst : (s.status &&& ~~~0x8#64) &&& ~~~0x1#64 = s.status &&& ~~~0x9#64 := BitVec.and_assoc ..
  rw [← hst]
  rfl

/-- The seeded lane with its increment named (40_datapath.md R106). -/
theorem seedLane_eq (l : Lane) {s q inc : Word} (hinc : inc = (q <<< 1) ||| 1#64) :
    seedLane l s q = { state := lcgStep (inc + s) inc, inc := inc } := by
  subst hinc
  exact Lane.ext (seedLane_state l s q) rfl

/-- Settles O41, by the closed form of the seeded lane. -/
theorem seed32SeedsG32 : Obligations.Seed32SeedsG32 := by
  intro s inc hinc
  have hlane := seedLane_eq s.g32 (s := s.l0) hinc
  calc exec .seed32 s
    _ = .next { s with
          g32 := seedLane s.g32 s.l0 s.l1, status := (s.status ||| 0x4#64) &&& ~~~0x1#64, inFlight := .none } := rfl
    _ = _ := by rw [hlane]; rfl

/-- Settles O47, by the closed form of the seeded lanes. -/
theorem seed64SeedsBothLanesApart : Obligations.Seed64SeedsBothLanesApart := by
  intro s q2 ilo ihi hq hlo hhi
  rw [← distinctSeq2_eq] at hq
  have hlanes := And.intro (seedLane_eq s.lo (s := s.l0) hlo) (seedLane_eq s.hi (s := s.l1) (hq ▸ hhi))
  refine ⟨hlo ▸ hhi ▸ hq ▸ distinctSeq2_increments_ne s.l2 s.l3, ?_⟩
  calc exec .seed64 s
    _ = .next { s with
          lo := seedLane s.lo s.l0 s.l2, hi := seedLane s.hi s.l1 (distinctSeq2 s.l2 s.l3)
          status := (s.status ||| 0x8#64) &&& ~~~0x1#64, inFlight := .none } := rfl
    _ = _ := by rw [hlanes.1, hlanes.2]; rfl

/-- Settles O42: the result is the draw under 32 zero bits. -/
theorem random32DrawsOnce : Obligations.Random32DrawsOnce := by
  refine fun s => ⟨zext64 (xshRr32 s.g32.state), rfl, ?_⟩
  rw [zext64_eq_append]
  exact ⟨BitVec.extractLsb'_append_eq_right, BitVec.extractLsb'_append_eq_left⟩

/-- Settles O48, by the halves of RANDOM64's result. -/
theorem random64DrawsBothLanes : Obligations.Random64DrawsBothLanes :=
  fun s => ⟨concat32 (xshRr32 s.hi.state) (xshRr32 s.lo.state), rfl, random64_result (s := s) rfl⟩

/-! ### BOUNDED: one draw from the working values -/

section
variable {s : State} {n : Nat}

theorem execBounded32_accept {t : Word32} {l : Lane} (hb : s.bound32 ≠ 0#32) (hw : s.bounded32Work = (t, n, l))
    (hd : t ≤ xshRr32 l.state) :
    exec .bounded32 s = .next (completeWith (zext64 (xshRr32 l.state % s.bound32)) { s with g32 := l.next }) := by
  change execBounded32 s = _
  rw [execBounded32, if_neg hb, hw]
  exact if_pos hd

theorem execBounded32_reject {t : Word32} {l : Lane} (hb : s.bound32 ≠ 0#32) (hw : s.bounded32Work = (t, n, l))
    (hd : xshRr32 l.state < t) : exec .bounded32 s = .next { s with inFlight := .bounded32 t (n + 1) l.next } := by
  change execBounded32 s = _
  rw [execBounded32, if_neg hb, hw]
  exact if_neg (BitVec.not_le.2 hd)

theorem execBounded64_accept {t : Word} {lo hi : Lane} (hb : s.bound64 ≠ 0#64)
    (hw : s.bounded64Work = (t, n, lo, hi)) (hd : t ≤ concat32 (xshRr32 hi.state) (xshRr32 lo.state)) :
    exec .bounded64 s = .next (completeWith (concat32 (xshRr32 hi.state) (xshRr32 lo.state) % s.bound64)
      { s with lo := lo.next, hi := hi.next }) := by
  change execBounded64 s = _
  rw [execBounded64, if_neg hb, hw]
  exact if_pos hd

theorem execBounded64_reject {t : Word} {lo hi : Lane} (hb : s.bound64 ≠ 0#64)
    (hw : s.bounded64Work = (t, n, lo, hi)) (hd : concat32 (xshRr32 hi.state) (xshRr32 lo.state) < t) :
    exec .bounded64 s = .next { s with inFlight := .bounded64 t (n + 1) lo.next hi.next } := by
  change execBounded64 s = _
  rw [execBounded64, if_neg hb, hw]
  exact if_neg (BitVec.not_le.2 hd)

end

theorem execBounded32_of_zero {s : State} (hb : s.bound32 = 0#32) :
    exec .bounded32 s = .next (completeWith 0#64 s) := if_pos hb

theorem execBounded64_of_zero {s : State} (hb : s.bound64 = 0#64) :
    exec .bounded64 s = .next (completeWith 0#64 s) := if_pos hb

/-- Settles O43, by the outcome of the draw from the working values. -/
theorem bounded32TakesOneDrawAStep : Obligations.Bounded32TakesOneDrawAStep := by
  refine ⟨fun s hb => execBounded32_of_zero ((bound32_eq_extractLsb' s).trans hb), fun s b t n l hb hne hw => ?_⟩
  rw [← bound32_eq_extractLsb'] at hb
  subst hb
  have hwork : s.bounded32Work = (t, n, l) := by
    obtain hf | ⟨hf, rfl, rfl, rfl⟩ := hw
    · rw [State.bounded32Work, hf]
    · exact bounded32Work_fresh hf
  exact ⟨execBounded32_accept hne hwork, execBounded32_reject hne hwork⟩

/-- Settles O49, by the outcome of the draw from the working values; its halves are the lanes' draws. -/
theorem bounded64TakesOneDrawAStep : Obligations.Bounded64TakesOneDrawAStep := by
  refine ⟨fun s hb => execBounded64_of_zero hb, fun s t r n lo hi hne hw hl hh => ?_⟩
  obtain rfl := eq_concat32_of_halves hl hh
  have hwork : s.bounded64Work = (t, n, lo, hi) := by
    obtain hf | ⟨hf, rfl, rfl, rfl, rfl⟩ := hw
    · rw [State.bounded64Work, hf]
    · exact bounded64Work_fresh hf
  exact ⟨execBounded64_accept hne hwork, execBounded64_reject hne hwork⟩

/-! ### ADVANCE and RETREAT: the jump of each lane -/

/-- The lane that a jump by `d` leaves. -/
def Lane.jumped (l : Lane) (d : Word) : Lane := { l with state := jump l.state d l.inc }

/-- A jump is as many steps. -/
theorem Lane.jumped_eq_steps (l : Lane) (d : Word) : l.jumped d = l.steps d.toNat :=
  Lane.ext ((jump_eq_iterate l.state d l.inc).trans (l.steps_state _).symm) (l.steps_inc _).symm

/-- On a seeded or an unseeded lane the jump by d undoes the jump by -d. -/
theorem Lane.steps_jumped_neg {l : Lane} (h : l.inc.getLsbD 0 = true ∨ l = Lane.zero) (d : Word) :
    (fun x => lcgStep x l.inc)^[d.toNat] (l.jumped (-d)).state = l.state := by
  rw [← jump_eq_iterate]
  refine jump_jump_neg (h.imp_right ?_) d
  rintro rfl
  exact ⟨rfl, rfl⟩

section
variable {s : State}

theorem execAdvance32_fresh (h : s.fresh .advance32) :
    exec .advance32 s = .next (complete { s with g32 := s.g32.jumped s.l0 }) := by
  change execAdvance32 s = _
  rw [execAdvance32, jump32Regs_fresh_advance h]
  rfl

theorem execRetreat32_fresh (h : s.fresh .retreat32) :
    exec .retreat32 s = .next (complete { s with g32 := s.g32.jumped (-s.l0) }) := by
  change execRetreat32 s = _
  rw [execRetreat32, jump32Regs_fresh_retreat h]
  rfl

theorem execAdvance64_fresh (h : s.fresh .advance64) :
    exec .advance64 s = .next (complete { s with lo := s.lo.jumped s.l0, hi := s.hi.jumped s.l0 }) := by
  change execAdvance64 s = _
  rw [execAdvance64, jump64Regs_fresh_advance h]
  rfl

theorem execRetreat64_fresh (h : s.fresh .retreat64) :
    exec .retreat64 s = .next (complete { s with lo := s.lo.jumped (-s.l0), hi := s.hi.jumped (-s.l0) }) := by
  change execRetreat64 s = _
  rw [execRetreat64, jump64Regs_fresh_retreat h]
  rfl

end

/-- Settles O44, by the jump law. -/
theorem advance32StepsDeltaTimes : Obligations.Advance32StepsDeltaTimes := by
  intro s h
  rw [execAdvance32_fresh h, Lane.jumped, jump_eq_iterate]
  rfl

/-- Settles O45, by the jump law and the jump back. -/
theorem retreat32StepsBack : Obligations.Retreat32StepsBack := fun s h =>
  ⟨jump s.g32.state (-s.l0) s.g32.inc, execRetreat32_fresh h, jump_eq_iterate ..,
    fun hl => Lane.steps_jumped_neg hl s.l0⟩

/-- Settles O50, by the jump law. -/
theorem advance64StepsBothLanesDeltaTimes : Obligations.Advance64StepsBothLanesDeltaTimes := by
  intro s h
  rw [execAdvance64_fresh h, Lane.jumped, jump_eq_iterate, Lane.jumped, jump_eq_iterate]
  rfl

/-- Settles O51, by the jump law and the jump back. -/
theorem retreat64StepsBothLanesBack : Obligations.Retreat64StepsBothLanesBack := fun s h =>
  ⟨jump s.lo.state (-s.l0) s.lo.inc, jump s.hi.state (-s.l0) s.hi.inc, execRetreat64_fresh h, jump_eq_iterate ..,
    jump_eq_iterate .., fun hl => Lane.steps_jumped_neg hl s.l0, fun hl => Lane.steps_jumped_neg hl s.l0⟩

end Sys2Proof.Machine
end

section
/-! SUPPORT. What an engine step does to the lanes, and its frame (spec/10_state.md R25, R27). -/

namespace Sys2Proof.Machine

/-! ### The frame of an engine step -/

section
variable {i : Instr} {s t : State}

/-- No command writes the operand registers, ERRINFO, the latches or the model's own fields. -/
theorem exec_keeps_registers (h : exec i s = .next t) :
    t.op0 = s.op0 ∧ t.op1 = s.op1 ∧ t.op2 = s.op2 ∧ t.op3 = s.op3 ∧ t.errinfo = s.errinfo ∧ t.lcmd = s.lcmd ∧
      t.l0 = s.l0 ∧ t.l1 = s.l1 ∧ t.l2 = s.l2 ∧ t.l3 = s.l3 ∧ t.schedule = s.schedule ∧ t.reads = s.reads ∧
      t.freeCount = s.freeCount := by
  obtain ⟨_, _, _, _, rfl⟩ | ⟨_, _, _, _, _, rfl⟩ | ⟨_, _, rfl⟩ := execOutcome_of_exec h <;>
    exact ⟨rfl, rfl, rfl, rfl, rfl, rfl, rfl, rfl, rfl, rfl, rfl, rfl, rfl⟩

/-- The commands of context G64, those with W = 1 (30_encoding.md R82). -/
def ofG64 : Instr → Bool
  | .clear64 | .seed64 | .random64 | .bounded64 | .advance64 | .retreat64 => true
  | .clear32 | .seed32 | .random32 | .bounded32 | .advance32 | .retreat32 => false

theorem ofG64_eq (i : Instr) : (tableCommandWord i).getLsbD 4 = ofG64 i := by cases i <;> rfl

theorem exec_keeps_g64 (h : exec i s = .next t) (hw : ofG64 i = false) : t.lo = s.lo ∧ t.hi = s.hi := by
  cases i
  case bounded32 =>
    obtain ⟨_, rfl⟩ | ⟨_, _, rfl⟩ | ⟨_, _, _, rfl⟩ := execBounded32_cases h <;> exact ⟨rfl, rfl⟩
  case clear32 | seed32 | random32 | advance32 | retreat32 => cases h; exact ⟨rfl, rfl⟩
  all_goals cases hw

theorem exec_keeps_g32 (h : exec i s = .next t) (hw : ofG64 i = true) : t.g32 = s.g32 := by
  cases i
  case bounded64 =>
    obtain ⟨_, rfl⟩ | ⟨_, _, rfl⟩ | ⟨_, _, _, rfl⟩ := execBounded64_cases h <;> rfl
  case clear64 | seed64 | random64 | advance64 | retreat64 => cases h; rfl
  all_goals cases hw

theorem exec_keeps_inc32 (h : exec i s = .next t) (h1 : i ≠ .seed32) (h2 : i ≠ .clear32) (h3 : i ≠ .bounded32) :
    t.g32.inc = s.g32.inc := by
  cases i
  case random32 | advance32 | retreat32 => cases h; rfl
  case seed32 | clear32 | bounded32 => contradiction
  all_goals rw [exec_keeps_g32 h rfl]

theorem exec_keeps_inc64 (h : exec i s = .next t) (h1 : i ≠ .seed64) (h2 : i ≠ .clear64) (h3 : i ≠ .bounded64) :
    t.lo.inc = s.lo.inc ∧ t.hi.inc = s.hi.inc := by
  cases i
  case random64 | advance64 | retreat64 => cases h; exact ⟨rfl, rfl⟩
  case seed64 | clear64 | bounded64 => contradiction
  all_goals obtain ⟨hlo, hhi⟩ := exec_keeps_g64 h rfl; rw [hlo, hhi]; exact ⟨rfl, rfl⟩

/-- A register's offset, in registers of 8 bytes. -/
theorem regAt_some {off : Fin 256} {r : Reg} (h : regAt off = some r) : off.val / 8 = (regOffset r).val / 8 := by
  unfold regAt at h
  split at h <;> cases h <;> assumption

/-- The window's registers at 0x00, 0x08, 0x18 to 0x38 and 0x48, and its reserved part, read the same. -/
theorem exec_keeps_windowValue (h : exec i s = .next t) {off : Fin 256} (h2 : off.val / 8 ≠ 2) (h8 : off.val / 8 ≠ 8)
    (hr : off.val / 8 < 10 ∨ 15 < off.val / 8) : windowValue off t = windowValue off s := by
  obtain ⟨hop0, hop1, hop2, hop3, herr, -⟩ := exec_keeps_registers h
  unfold windowValue
  cases hreg : regAt off with
  | none => rfl
  | some r =>
    have hoff := regAt_some hreg
    cases r
    case op0 => exact hop0
    case op1 => exact hop1
    case op2 => exact hop2
    case op3 => exact hop3
    case errinfo => exact herr
    case id | mult | cmd => rfl
    all_goals simp [regOffset] at hoff; omega

end

/-- Settles O52, part by part. -/
theorem commandFrames : Obligations.CommandFrames := by
  intro i s t h
  rw [ofG64_eq]
  refine ⟨exec_keeps_registers h, fun j hj => ?_, fun hw => ?_, fun hw => ⟨exec_keeps_g32 h hw, ?_⟩,
    fun h1 h2 h3 h4 => ?_, exec_keeps_inc32 h, fun h1 h2 => ?_, exec_keeps_inc64 h, fun h1 h2 => ?_,
    fun off h2 h8 hr => ?_⟩
  · rw [exec_status_bit h (by omega), if_neg (by omega), if_neg (by omega)]
  · obtain ⟨hlo, hhi⟩ := exec_keeps_g64 h hw
    refine ⟨hlo, hhi, ?_⟩
    rw [exec_seeded64 h, if_neg (by rintro rfl; cases hw), if_neg (by rintro rfl; cases hw)]
  · rw [exec_seeded32 h, if_neg (by rintro rfl; cases hw), if_neg (by rintro rfl; cases hw)]
  · have hr : returnsResult i = false := by
      rw [Bool.eq_false_iff, Ne, returnsResult_iff]
      tauto
    exact (exec_keeps_result h (.inl hr)).symm
  · rw [exec_seeded32 h, if_neg h1, if_neg h2]
  · rw [exec_seeded64 h, if_neg h1, if_neg h2]
  · rw [windowByte, windowByte, exec_keeps_windowValue h h2 h8 hr]

/-! ### The lanes after an engine step of the command in flight -/

section
variable {i : Instr} {s t : State} (hf : s.flightOk i) (h : exec i s = .next t)
include hf h

/-- Every command but CLEAR32 and SEED32 leaves G32 some number of LCG steps on. -/
theorem exec_steps_g32 (h1 : i ≠ .clear32) (h2 : i ≠ .seed32) : ∃ n, t.g32 = s.g32.steps n := by
  cases i
  case clear32 | seed32 => contradiction
  case random32 => cases h; exact ⟨1, rfl⟩
  case bounded32 => exact (bounded32_lanes hf h).1
  case advance32 =>
    obtain rfl := Host.Outcome.next.inj ((execAdvance32_fresh (.inr hf)).symm.trans h)
    exact ⟨_, s.g32.jumped_eq_steps s.l0⟩
  case retreat32 =>
    obtain rfl := Host.Outcome.next.inj ((execRetreat32_fresh (.inr hf)).symm.trans h)
    exact ⟨_, s.g32.jumped_eq_steps (-s.l0)⟩
  all_goals exact ⟨0, exec_keeps_g32 h rfl⟩

/-- Every command but CLEAR64 and SEED64 leaves LO and HI the same number of LCG steps on (10_state.md R27). -/
theorem exec_steps_g64 (h1 : i ≠ .clear64) (h2 : i ≠ .seed64) :
    ∃ n, t.lo = s.lo.steps n ∧ t.hi = s.hi.steps n := by
  cases i
  case clear64 | seed64 => contradiction
  case random64 => cases h; exact ⟨1, rfl, rfl⟩
  case bounded64 => exact (bounded64_lanes hf h).2
  case advance64 =>
    obtain rfl := Host.Outcome.next.inj ((execAdvance64_fresh (.inr hf)).symm.trans h)
    exact ⟨_, s.lo.jumped_eq_steps s.l0, s.hi.jumped_eq_steps s.l0⟩
  case retreat64 =>
    obtain rfl := Host.Outcome.next.inj ((execRetreat64_fresh (.inr hf)).symm.trans h)
    exact ⟨_, s.lo.jumped_eq_steps (-s.l0), s.hi.jumped_eq_steps (-s.l0)⟩
  all_goals exact ⟨0, exec_keeps_g64 h rfl⟩

end

end Sys2Proof.Machine
end

section
/-! SUPPORT. The invariant, kept by every step, and what follows for whole runs: no run stops, and LO and HI stay in
lock step. -/

namespace Sys2Proof.Machine

/-! ### The reserved bits of STATUS (spec/10_state.md R43) -/

/-- No reserved bit of STATUS is 1. -/
def Reserved (w : Word) : Prop := w &&& ~~~statusMask = 0#64

/-- A write that takes no bit but STATUS's own from 0 to 1 keeps the reserved bits 0. -/
theorem Reserved.of_bits {w x : Word} (h : Reserved w)
    (hx : ∀ j, x.getLsbD j = true → w.getLsbD j = true ∨ statusMask.getLsbD j = true) : Reserved x := by
  refine BitVec.eq_of_getLsbD_eq fun j hj => ?_
  have hw := congrArg (BitVec.getLsbD · j) h
  simp only [BitVec.getLsbD_and, BitVec.getLsbD_not, hj, decide_true, Bool.true_and, BitVec.getLsbD_zero] at hw ⊢
  cases hxj : x.getLsbD j
  · rfl
  · obtain hbit | hmask := hx j hxj
    · rw [hbit] at hw; exact hw
    · rw [hmask]; rfl

theorem Reserved.setBit {w : Word} (h : Reserved w) {k : Nat} (b : Bool) (hk : k < 64)
    (hm : statusMask.getLsbD k = true) : Reserved (setBit w k b) := by
  refine h.of_bits fun j hj => ?_
  rw [getLsbD_setBit w k j b hk] at hj
  split at hj
  · rename_i h; exact .inr (h ▸ hm)
  · exact .inl hj

theorem Reserved.w1cWrite {w : Word} (h : Reserved w) (v : Word) : Reserved (w1cWrite w v) := by
  refine h.of_bits fun j hj => .inl ?_
  rw [getLsbD_w1cWrite] at hj
  exact (Bool.and_eq_true_iff.1 hj).1

theorem Reserved.seededStatus {w : Word} (h : Reserved w) (i : Instr) : Reserved (seededStatus i w) := by
  cases i
  case clear32 | seed32 | clear64 | seed64 => exact h.setBit _ (by decide) (by decide)
  all_goals exact h

theorem Reserved.complete {s : State} (h : Reserved s.status) : Reserved (complete s).status :=
  h.setBit _ (by decide) (by decide)

/-! ### What the host's accesses other than acceptance leave of the invariant -/

/-- Values of STATUS's event bits, of ERRINFO, of the operand registers and of the model's own fields do not matter. -/
theorem State.Inv.of_host_update {s : State} (h : s.Inv) {x : Word} (hres : Reserved x)
    (hlow : ∀ j < 8, x.getLsbD j = s.status.getLsbD j) (a b c d e : Word) (ts : List Turn) (rs : List HostRead)
    (fc : Nat) :
    State.Inv { s with
      status := x, op0 := a, op1 := b, op2 := c, op3 := d, errinfo := e, schedule := ts, reads := rs
      freeCount := fc } where
  reserved := hres
  unseeded32 hs := h.unseeded32 ((hlow 2 (by decide)).symm.trans hs)
  seeded32 hs := h.seeded32 ((hlow 2 (by decide)).symm.trans hs)
  unseeded64 hs := h.unseeded64 ((hlow 3 (by decide)).symm.trans hs)
  seeded64 hs := h.seeded64 ((hlow 3 (by decide)).symm.trans hs)
  idle hb := h.idle ((hlow 0 (by decide)).symm.trans hb)
  inFlight hb := by
    obtain ⟨i, hd, hf⟩ := h.inFlight ((hlow 0 (by decide)).symm.trans hb)
    exact ⟨i, hd, by cases i <;> exact hf⟩
  noResult hb := (hlow 1 (by decide)).trans (h.noResult ((hlow 0 (by decide)).symm.trans hb))

theorem State.Inv.popped {s : State} (h : s.Inv) : s.popped.Inv :=
  h.of_host_update h.reserved (fun _ _ => rfl) ..

theorem State.Inv.raiseEvent {s : State} (h : s.Inv) (e : Event) (w : Word) : (raiseEvent e w s).Inv :=
  h.of_host_update (Reserved.setBit h.reserved _ (event_code_lt e) (by cases e <;> decide))
    (fun _ hj => raiseEvent_low e w s hj) ..

theorem State.Inv.clearEvents {s : State} (h : s.Inv) (v : Word) : (clearEvents v s).Inv :=
  h.of_host_update (Reserved.w1cWrite h.reserved v) (fun _ hj => clearEvents_low v s hj) ..

/-! ### Reset -/

theorem State.reset_inv : State.reset.Inv where
  reserved := rfl
  unseeded32 _ := rfl
  seeded32 h := absurd h (by decide)
  unseeded64 _ := ⟨rfl, rfl⟩
  seeded64 h := absurd h (by decide)
  idle _ := rfl
  inFlight h := absurd h (by decide)
  noResult h := absurd h (by decide)

/-- Settles O7: the turns to come are no part of the invariant. -/
theorem resetMeetsTheInvariant : Obligations.ResetMeetsTheInvariant :=
  fun _ => State.reset_inv.of_host_update State.reset_inv.reserved (fun _ _ => rfl) ..

theorem resetBlock_inv (s : State) : (resetBlock s).Inv :=
  State.reset_inv.of_host_update State.reset_inv.reserved (fun _ _ => rfl) ..

/-! ### Acceptance -/

/-- The first working values are the ones the invariant asks for. -/
theorem flightOk_of_startFlight {i : Instr} {s : State} (h : s.inFlight = startFlight i s)
    (hw : i = .bounded32 → s.l0.extractLsb' 32 32 = 0#32) : s.flightOk i := by
  cases i
  case bounded32 =>
    exact ⟨hw rfl, fun hb => by rw [h, startFlight, if_pos hb],
      fun hb => ⟨0, by rw [h, startFlight, if_neg hb]; rfl, fun k hk => absurd hk k.not_lt_zero⟩⟩
  case bounded64 =>
    exact ⟨fun hb => by rw [h, startFlight, if_pos hb],
      fun hb => ⟨0, by rw [h, startFlight, if_neg hb]; rfl, fun k hk => absurd hk k.not_lt_zero⟩⟩
  all_goals exact h

theorem operandTooWide_bounded32 {s : State} (h : operandTooWide .bounded32 s = false) :
    s.op0.extractLsb' 32 32 = 0#32 := bne_eq_false_iff_eq.1 h

theorem latchCommand_flightOk {i : Instr} {w : Word} {s : State} (hd : decode w = .ok i)
    (hw : operandTooWide i s = false) : (latchCommand w s).flightOk i := by
  refine flightOk_of_startFlight ?_ ?_
  · rw [latchCommand_inFlight s hd]
    cases i <;> rfl
  · rintro rfl
    exact operandTooWide_bounded32 hw

theorem State.Inv.latchCommand {i : Instr} {w : Word} {s : State} (h : s.Inv) (hd : decode w = .ok i)
    (hw : operandTooWide i s = false) : (latchCommand w s).Inv where
  reserved := Reserved.setBit (Reserved.setBit h.reserved _ (by decide) (by decide)) _ (by decide) (by decide)
  unseeded32 hs := h.unseeded32 ((latchCommand_seeded32 w s).symm.trans hs)
  seeded32 hs := h.seeded32 ((latchCommand_seeded32 w s).symm.trans hs)
  unseeded64 hs := h.unseeded64 ((latchCommand_seeded64 w s).symm.trans hs)
  seeded64 hs := h.seeded64 ((latchCommand_seeded64 w s).symm.trans hs)
  idle hb := by rw [latchCommand_busy] at hb; cases hb
  inFlight _ := ⟨i, hd, latchCommand_flightOk hd hw⟩
  noResult _ := latchCommand_rv w s

theorem State.Inv.acceptCommand {i : Instr} {w : Word} {s : State} (h : s.Inv) (hd : decode w = .ok i)
    (hw : operandTooWide i s = false) : (acceptCommand i w s).Inv := by
  obtain ⟨_, hx⟩ | ⟨_, hx⟩ := acceptCommand_cases i w s <;> rw [hx]
  · exact (h.latchCommand hd hw).raiseEvent _ w
  · exact h.latchCommand hd hw

/-- An accepted word's operand is in range (30_encoding.md R90). -/
theorem operandTooWide_of_acceptNow {s : State} {w : Word} {i : Instr} (ha : s.acceptNow = some w)
    (hd : decode w = .ok i) : operandTooWide i s = false := by
  unfold State.acceptNow at ha
  split at ha
  · split at ha
    · rename_i hc
      cases ha
      exact (wideBound_of_ok s hd).symm.trans hc.2.2
    · cases ha
  · cases ha

/-! ### An engine step -/

section
variable {i : Instr} {s t : State}

theorem exec_reserved (h : exec i s = .next t) (hr : Reserved s.status) : Reserved t.status := by
  obtain ⟨_, _, _, _, rfl⟩ | ⟨_, _, _, _, _, rfl⟩ | ⟨_, _, rfl⟩ := execOutcome_of_exec h
  · exact Reserved.complete (hr.seededStatus i)
  · exact Reserved.complete (hr.setBit _ (by decide) (by decide))
  · exact hr

/-- A completed command leaves no working values. -/
theorem exec_idle (h : exec i s = .next t) (hb : s.busy = true) (ht : t.busy = false) : t.inFlight = .none := by
  obtain ⟨_, _, _, _, rfl⟩ | ⟨_, _, _, _, _, rfl⟩ | ⟨_, _, rfl⟩ := execOutcome_of_exec h
  · rfl
  · rfl
  · exact absurd (hb.symm.trans ht) (by decide)

/-- A BOUNDED32 that stays in flight has rejected one draw more. -/
theorem execBounded32_flightOk (hf : s.flightOk .bounded32) (h : exec .bounded32 s = .next t) (ht : t.busy = true) :
    t.flightOk .bounded32 := by
  by_cases hb : s.bound32 = 0#32
  · rw [execBounded32_zero hb h, completeWith_busy] at ht
    cases ht
  · obtain ⟨hwide, hzero, hw⟩ := hf
    obtain ⟨n, hfl, hrej⟩ := hw hb
    have hwork : s.bounded32Work = (threshold32 s.bound32, n, s.g32.steps n) := by rw [State.bounded32Work, hfl]
    by_cases hacc : threshold32 s.bound32 ≤ s.g32.drawAt n
    · rw [execBounded32_accept hb hwork hacc] at h
      cases h
      rw [completeWith_busy] at ht
      cases ht
    · have hlt := BitVec.not_le.1 hacc
      rw [execBounded32_reject hb hwork hlt] at h
      cases h
      exact ⟨hwide, fun h0 => absurd h0 hb,
        fun _ => ⟨n + 1, by rw [Lane.steps_succ]; rfl, Nat.forall_lt_succ_right.2 ⟨hrej, hlt⟩⟩⟩

/-- A BOUNDED64 that stays in flight has rejected one draw more. -/
theorem execBounded64_flightOk (hf : s.flightOk .bounded64) (h : exec .bounded64 s = .next t) (ht : t.busy = true) :
    t.flightOk .bounded64 := by
  by_cases hb : s.bound64 = 0#64
  · rw [execBounded64_zero hb h, completeWith_busy] at ht
    cases ht
  · obtain ⟨hzero, hw⟩ := hf
    obtain ⟨n, hfl, hrej⟩ := hw hb
    have hwork : s.bounded64Work = (threshold64 s.bound64, n, s.lo.steps n, s.hi.steps n) := by
      rw [State.bounded64Work, hfl]
    by_cases hacc : threshold64 s.bound64 ≤ draw64At s.lo s.hi n
    · rw [execBounded64_accept hb hwork hacc] at h
      cases h
      rw [completeWith_busy] at ht
      cases ht
    · have hlt := BitVec.not_le.1 hacc
      rw [execBounded64_reject hb hwork hlt] at h
      cases h
      exact ⟨fun h0 => absurd h0 hb,
        fun _ => ⟨n + 1, by rw [Lane.steps_succ, Lane.steps_succ]; rfl, Nat.forall_lt_succ_right.2 ⟨hrej, hlt⟩⟩⟩

/-- Only a BOUNDED stays in flight. -/
theorem exec_flightOk (hf : s.flightOk i) (h : exec i s = .next t) (ht : t.busy = true) : t.flightOk i := by
  cases i
  case bounded32 => exact execBounded32_flightOk hf h ht
  case bounded64 => exact execBounded64_flightOk hf h ht
  case random32 | random64 => cases h; rw [completeWith_busy] at ht; cases ht
  all_goals cases h; rw [complete_busy] at ht; cases ht

/-- G32 after an engine step is zero if unseeded, and has an odd increment if seeded. -/
theorem exec_context32 (hinv : s.Inv) (hf : s.flightOk i) (h : exec i s = .next t) :
    (t.seeded32 = false → t.g32 = Lane.zero) ∧ (t.seeded32 = true → t.g32.inc.getLsbD 0 = true) := by
  rw [exec_seeded32 h]
  by_cases h1 : i = .clear32
  · subst h1; cases h
    exact ⟨fun _ => rfl, fun hs => (by cases hs)⟩
  by_cases h2 : i = .seed32
  · subst h2; cases h
    exact ⟨fun hs => (by cases hs), fun _ => seedLane_inc_odd s.g32 s.l0 s.l1⟩
  · obtain ⟨n, hn⟩ := exec_steps_g32 hf h h1 h2
    rw [if_neg h2, if_neg h1, hn, Lane.steps_inc]
    exact ⟨fun hs => by rw [hinv.unseeded32 hs, Lane.zero_steps], hinv.seeded32⟩

/-- LO and HI after an engine step, as `exec_context32`; seeded, their increments differ. -/
theorem exec_context64 (hinv : s.Inv) (hf : s.flightOk i) (h : exec i s = .next t) :
    (t.seeded64 = false → t.lo = Lane.zero ∧ t.hi = Lane.zero) ∧
    (t.seeded64 = true → t.lo.inc.getLsbD 0 = true ∧ t.hi.inc.getLsbD 0 = true ∧ t.lo.inc ≠ t.hi.inc) := by
  rw [exec_seeded64 h]
  by_cases h1 : i = .clear64
  · subst h1; cases h
    exact ⟨fun _ => ⟨rfl, rfl⟩, fun hs => (by cases hs)⟩
  by_cases h2 : i = .seed64
  · subst h2; cases h
    exact ⟨fun hs => (by cases hs), fun _ => ⟨seedLane_inc_odd s.lo s.l0 s.l2, seedLane_inc_odd s.hi s.l1 _,
      distinctSeq2_increments_ne s.l2 s.l3⟩⟩
  · obtain ⟨n, hlo, hhi⟩ := exec_steps_g64 hf h h1 h2
    rw [if_neg h2, if_neg h1, hlo, hhi, Lane.steps_inc, Lane.steps_inc]
    refine ⟨fun hs => ?_, hinv.seeded64⟩
    obtain ⟨hl, hh⟩ := hinv.unseeded64 hs
    rw [hl, hh, Lane.zero_steps]
    exact ⟨rfl, rfl⟩

/-- An engine step of the command in flight keeps the invariant. -/
theorem exec_inv (hinv : s.Inv) (hb : s.busy = true) (hd : decode s.lcmd = .ok i) (h : exec i s = .next t) : t.Inv := by
  have hf := hinv.flightOk hb hd
  obtain ⟨-, -, -, -, -, hlcmd, -⟩ := exec_keeps_registers h
  exact {
    reserved := exec_reserved h hinv.reserved
    unseeded32 := (exec_context32 hinv hf h).1
    seeded32 := (exec_context32 hinv hf h).2
    unseeded64 := (exec_context64 hinv hf h).1
    seeded64 := (exec_context64 hinv hf h).2
    idle := exec_idle h hb
    inFlight := fun ht => ⟨i, by rw [hlcmd, hd], exec_flightOk hf h ht⟩
    noResult := fun ht => (exec_keeps_result h (.inr ht)).1.trans (hinv.noResult hb) }

end

/-! ### Any step -/

/-- Settles O8, by the outcomes of a step. -/
theorem everyStepKeepsTheInvariant : Obligations.EveryStepKeepsTheInvariant := by
  intro s s' hinv h
  cases stepOutcome_of_step h with
  | ran i _ hb hd hx => exact exec_inv (s := s.popped) hinv.popped hb hd hx
  | reset _ hx => exact hx ▸ resetBlock_inv _
  | quiet _ hx =>
    obtain ⟨_, _, _, _, _, _, _, rfl⟩ := hx
    exact hinv.of_host_update hinv.reserved (fun _ _ => rfl) ..
  | cleared v _ hx => exact hx ▸ hinv.popped.clearEvents v
  | rejected e w _ hx =>
    obtain ⟨rs, rfl⟩ := hx
    exact (hinv.of_host_update hinv.reserved (fun _ _ => rfl) ..).raiseEvent e w
  | accepted i w _ hd seen hx =>
    have hw := operandTooWide_of_acceptNow seen.accept hd
    exact hx ▸ hinv.popped.acceptCommand hd ((operandTooWide_popped i s).trans hw)

/-! ### No run stops (spec/60_exceptions.md R160) -/

theorem engineTurn_next {s : State} (hinv : s.Inv) : ∃ t, engineTurn s = .next t := by
  cases hb : s.busy
  · exact ⟨s, engineTurn_idle hb⟩
  · obtain ⟨i, hd, _⟩ := hinv.inFlight hb
    rw [engineTurn_busy hb hd]
    exact exec_next i s

theorem step_next {s : State} (hinv : s.Inv) : ∃ t, step s = .next t := by
  cases hs : s.schedule with
  | nil => rw [step_nil hs]; exact engineTurn_next hinv
  | cons turn rest =>
    cases turn with
    | engine => rw [step_engine hs, ← State.popped_cons hs]; exact engineTurn_next hinv.popped
    | access a => exact ⟨_, step_access hs⟩
    | bus addr n d => exact ⟨_, step_bus hs⟩
    | poll => exact ⟨_, step_poll hs⟩
    | reset => exact ⟨_, step_reset hs⟩

/-- Settles O9: a state of the invariant steps to a state of the invariant. -/
theorem noRunStops : Obligations.NoRunStops := by
  intro s hinv n
  induction n generalizing s with
  | zero => exact ⟨s, rfl⟩
  | succ n ih =>
    obtain ⟨t, ht⟩ := step_next hinv
    rw [run_succ_of_step n ht]
    exact ih t (everyStepKeepsTheInvariant s t hinv ht)

/-! ### Runs through states with a property -/

/-- What every step from a state with property Q keeps, a run through such states keeps. -/
theorem run_induction_through {P Q : State → Prop} (hP : ∀ s t, P s → Q s → step s = .next t → P t) :
    ∀ (n : Nat) (s t : State), P s → (∀ j < n, ∀ u, Host.Core.run core j s = .next u → Q u) →
      Host.Core.run core n s = .next t → P t := by
  intro n
  induction n with
  | zero => intro s t hs _ h; cases h; exact hs
  | succ n ih =>
    intro s t hs hq h
    obtain ⟨u, hu, hr⟩ := run_succ_inv h
    refine ih u t (hP s u hs (hq 0 n.succ_pos s rfl) hu) (fun j hj v hv => ?_) hr
    exact hq (j + 1) (Nat.succ_lt_succ hj) v ((run_succ_of_step j hu).trans hv)

/-! ### Lock step of LO and HI (spec/10_state.md R27) -/

/-- One step with no reset, CLEAR64 or SEED64 leaves LO and HI the same number of LCG steps on. -/
theorem step_lockStep {s t : State} (hinv : s.Inv) (h : step s = .next t) (hr : s.resetNow = false)
    (h1 : s.engineNow ≠ some .clear64) (h2 : s.engineNow ≠ some .seed64) :
    ∃ n, t.lo = s.lo.steps n ∧ t.hi = s.hi.steps n := by
  cases stepOutcome_of_step h with
  | ran i seen hb hd hx =>
    rw [seen.engine] at h1 h2
    exact exec_steps_g64 (s := s.popped) (hinv.popped.flightOk hb hd) hx (h1 <| congrArg some ·) (h2 <| congrArg some ·)
  | reset seen => rw [seen.reset] at hr; cases hr
  | quiet _ hx => obtain ⟨_, _, _, _, _, _, _, rfl⟩ := hx; exact ⟨0, rfl, rfl⟩
  | cleared v _ hx => subst hx; exact ⟨0, rfl, rfl⟩
  | rejected e w _ hx => obtain ⟨_, rfl⟩ := hx; exact ⟨0, rfl, rfl⟩
  | accepted i w _ _ _ hx =>
    obtain ⟨_, ha⟩ | ⟨_, ha⟩ := acceptCommand_cases i w s.popped <;> rw [hx, ha] <;> exact ⟨0, rfl, rfl⟩

/-- Settles O56: the steps of the single turns add up. -/
theorem lanesOfG64StayInLockStep : Obligations.LanesOfG64StayInLockStep := by
  intro k s t hinv h hq
  refine (run_induction_through
    (P := fun u => u.Inv ∧ ∃ n, u.lo = s.lo.steps n ∧ u.hi = s.hi.steps n) ?_ k s t ⟨hinv, 0, rfl, rfl⟩ hq h).2
  rintro u v ⟨hu, n, hlo, hhi⟩ ⟨hr, h1, h2⟩ huv
  obtain ⟨m, hlo', hhi'⟩ := step_lockStep hu huv hr h1 h2
  exact ⟨everyStepKeepsTheInvariant u v hu huv, n + m, by rw [hlo', hlo, Lane.steps_add],
    by rw [hhi', hhi, Lane.steps_add]⟩

end Sys2Proof.Machine
end

section
/-! SUPPORT. BOUNDED over runs: the first accepted draw (spec/40_datapath.md R109), the hang on an unseeded context and
the completion on a seeded one (spec/70_reset_and_hazards.md R190, R191). -/

namespace Sys2Proof.Machine

/-! ### An unseeded BOUNDED rejects every draw (spec/70_reset_and_hazards.md R190) -/

@[simp] theorem Lane.zero_drawAt (n : Nat) : Lane.zero.drawAt n = 0#32 := by
  rw [Lane.drawAt, Lane.zero_steps]
  decide

theorem draw64At_zero (n : Nat) : draw64At Lane.zero Lane.zero n = 0#64 := by
  rw [draw64At, Lane.zero_drawAt]
  decide

/-- A draw of 0 is below the threshold of a bound that is no power of two. -/
theorem not_neg_umod_le_zero {w : Nat} {b : BitVec w} (hb : b ≠ 0#w) (hp : ∀ j, b.toNat ≠ 2 ^ j) :
    ¬ (-b) % b ≤ 0#w := fun h =>
  have ⟨j, hj⟩ := (neg_umod_eq_zero_iff hb).1 (BitVec.le_zero_iff.1 h)
  hp j hj

/-- The command in flight is a BOUNDED on an unseeded context with a bound that is neither 0 nor a power of two. -/
def State.Hangs (s : State) : Prop :=
  (decode s.lcmd = .ok .bounded32 ∧ s.seeded32 = false ∧ s.bound32 ≠ 0#32 ∧ ∀ j, s.bound32.toNat ≠ 2 ^ j) ∨
  (decode s.lcmd = .ok .bounded64 ∧ s.seeded64 = false ∧ s.bound64 ≠ 0#64 ∧ ∀ j, s.bound64.toNat ≠ 2 ^ j)

/-- Whether it hangs depends on the latches and the SEEDED flags alone. -/
theorem State.Hangs.congr {s t : State} (h : s.Hangs) (hlcmd : t.lcmd = s.lcmd) (hl0 : t.l0 = s.l0)
    (h32 : t.seeded32 = s.seeded32) (h64 : t.seeded64 = s.seeded64) : t.Hangs := by
  unfold State.Hangs State.bound32 State.bound64
  rwa [hlcmd, hl0, h32, h64]

theorem exec_of_hangs {s t : State} {i : Instr} (hinv : s.Inv) (hb : s.busy = true) (hh : s.Hangs)
    (hd : decode s.lcmd = .ok i) (h : exec i s = .next t) : ∃ f, t = { s with inFlight := f } := by
  have hf := hinv.flightOk hb hd
  obtain ⟨hi, hs, hne, hp⟩ | ⟨hi, hs, hne, hp⟩ := hh
  · obtain rfl : i = .bounded32 := Except.ok.inj (hd.symm.trans hi)
    obtain ⟨n, -, ⟨hacc, -⟩ | ht⟩ := execBounded32_of_flightOk hf hne h
    · rw [hinv.unseeded32 hs, Lane.zero_drawAt] at hacc
      exact absurd hacc (not_neg_umod_le_zero hne hp)
    · exact ht
  · obtain rfl : i = .bounded64 := Except.ok.inj (hd.symm.trans hi)
    obtain ⟨n, -, ⟨hacc, -⟩ | ht⟩ := execBounded64_of_flightOk hf hne h
    · obtain ⟨hlo, hhi⟩ := hinv.unseeded64 hs
      rw [hlo, hhi, draw64At_zero] at hacc
      exact absurd hacc (not_neg_umod_le_zero hne hp)
    · exact ht

/-- While it hangs, a step other than reset keeps BUSY, LCMD and the hang. -/
theorem step_of_hangs {s t : State} (hinv : s.Inv) (hb : s.busy = true) (hh : s.Hangs) (hr : s.resetNow = false)
    (h : step s = .next t) : t.busy = true ∧ t.lcmd = s.lcmd ∧ t.Hangs := by
  cases stepOutcome_of_step h with
  | ran i _ _ hd hx =>
    obtain ⟨f, rfl⟩ := exec_of_hangs (s := s.popped) hinv.popped hb (hh.congr rfl rfl rfl rfl) hd hx
    exact ⟨hb, rfl, hh.congr rfl rfl rfl rfl⟩
  | reset seen => rw [seen.reset] at hr; cases hr
  | quiet _ hx =>
    obtain ⟨_, _, _, _, _, _, _, rfl⟩ := hx
    exact ⟨hb, rfl, hh.congr rfl rfl rfl rfl⟩
  | cleared v _ hx =>
    subst hx
    exact ⟨(clearEvents_busy v _).trans hb, rfl,
      hh.congr rfl rfl (clearEvents_seeded32 v s.popped) (clearEvents_seeded64 v s.popped)⟩
  | rejected e w _ hx =>
    obtain ⟨rs, rfl⟩ := hx
    exact ⟨(raiseEvent_busy e w _).trans hb, rfl,
      hh.congr rfl rfl (raiseEvent_seeded32 e w s.popped) (raiseEvent_seeded64 e w s.popped)⟩
  | accepted i w hb' => exact absurd (hb.symm.trans hb') (by decide)

/-! ### The next turn while BUSY = 1 -/

theorem step_overrun {t : State} {w : Word} (hb : t.busy = true) (hw : t.writeNow 0x18 = some w) :
    step t = .next (raiseEvent .errOverrun w t.popped) := by
  obtain ⟨-, -, hstep⟩ := step_of_writeNow hw
  exact hstep.trans (congrArg _ (submitCommand_busy (s := t.popped) hb))

theorem step_poll_busy {t : State} {rest : List Turn} (hb : t.busy = true) (hs : t.schedule = .poll :: rest) :
    ∃ u, step t = .next u ∧ u.schedule = .engine :: .poll :: rest := by
  refine ⟨_, step_poll hs, ?_⟩
  obtain ⟨hb', _⟩ | ⟨_, hx⟩ := pollRound_cases { t with schedule := rest }
  · exact absurd (hb.symm.trans hb') (by decide)
  · rw [hx]

@[simp] theorem resetBlock_busy (s : State) : (resetBlock s).busy = false := by
  rw [busy_def, resetBlock_status]; rfl

theorem step_of_resetNow {t : State} (h : t.resetNow = true) : step t = .next (resetBlock t.popped) := by
  unfold State.resetNow at h
  split at h
  · rename_i rest hs
    rw [step_reset hs, State.popped_cons hs]
  · cases h

/-- Settles O59: the hang is kept along the run, and BUSY = 1 decides the next turn. -/
theorem unseededBoundedHangsUntilReset : Obligations.UnseededBoundedHangsUntilReset := by
  intro k s t hinv hb hh hq h
  obtain ⟨-, hbt, hlcmd, -⟩ := run_induction_through
    (P := fun u => u.Inv ∧ u.busy = true ∧ u.lcmd = s.lcmd ∧ u.Hangs)
    (fun u v ⟨hu, hbu, hlu, hhu⟩ hr huv => by
      obtain ⟨hbv, hlv, hhv⟩ := step_of_hangs hu hbu hhu hr huv
      exact ⟨everyStepKeepsTheInvariant u v hu huv, hbv, hlv.trans hlu, hhv⟩)
    k s t ⟨hinv, hb, rfl, hh⟩ hq h
  refine ⟨hbt, hlcmd, fun w hw => ⟨_, step_overrun hbt hw, ?_, rfl⟩, fun rest hs => step_poll_busy hbt hs,
    fun hr => ⟨_, step_of_resetNow hr, resetBlock_busy _⟩⟩
  rw [raiseEvent_eventBit, decide_eq_true rfl, Bool.true_or]

/-! ### The engine alone, up to the first accepted draw (spec/40_datapath.md R109) -/

/-- With nothing scheduled a step is one engine step of the command in flight (log 2). -/
theorem step_alone {s : State} {i : Instr} (hs : s.schedule = []) (hb : s.busy = true) (hd : decode s.lcmd = .ok i) :
    step s = exec i s := by rw [step_nil hs, engineTurn_busy hb hd]

/-- BOUNDED32 from a working lane: the draws that are rejected, then the one that is accepted. The k-th draw and step of
the lane after a rejection are by definition the (k + 1)-th of the lane before it. -/
theorem run_bounded32 {s : State} {t : Word32} {d : Nat} {l : Lane} (n : Nat) (hs : s.schedule = [])
    (hb : s.busy = true) (hd : decode s.lcmd = .ok .bounded32) (hne : s.bound32 ≠ 0#32)
    (hw : s.bounded32Work = (t, d, l)) (hrej : ∀ k < n, l.drawAt k < t) (hacc : t ≤ l.drawAt n) :
    Host.Core.run core (n + 1) s =
      .next (completeWith (zext64 (l.drawAt n % s.bound32)) { s with g32 := l.steps (n + 1) }) := by
  induction n generalizing s d l with
  | zero => exact run_succ_of_step 0 ((step_alone hs hb hd).trans (execBounded32_accept hne hw hacc))
  | succ n ih =>
    have hstep := (step_alone hs hb hd).trans (execBounded32_reject hne hw (hrej 0 n.succ_pos))
    rw [run_succ_of_step _ hstep]
    exact ih (s := { s with inFlight := .bounded32 t (d + 1) l.next }) hs hb hd hne rfl
      (fun k hk => hrej (k + 1) (Nat.succ_lt_succ hk)) hacc

/-- BOUNDED64 from working lanes, as `run_bounded32`. -/
theorem run_bounded64 {s : State} {t : Word} {d : Nat} {lo hi : Lane} (n : Nat) (hs : s.schedule = [])
    (hb : s.busy = true) (hd : decode s.lcmd = .ok .bounded64) (hne : s.bound64 ≠ 0#64)
    (hw : s.bounded64Work = (t, d, lo, hi)) (hrej : ∀ k < n, draw64At lo hi k < t) (hacc : t ≤ draw64At lo hi n) :
    Host.Core.run core (n + 1) s =
      .next (completeWith (draw64At lo hi n % s.bound64)
        { s with lo := lo.steps (n + 1), hi := hi.steps (n + 1) }) := by
  induction n generalizing s d lo hi with
  | zero => exact run_succ_of_step 0 ((step_alone hs hb hd).trans (execBounded64_accept hne hw hacc))
  | succ n ih =>
    have hstep := (step_alone hs hb hd).trans (execBounded64_reject hne hw (hrej 0 n.succ_pos))
    rw [run_succ_of_step _ hstep]
    exact ih (s := { s with inFlight := .bounded64 t (d + 1) lo.next hi.next }) hs hb hd hne rfl
      (fun k hk => hrej (k + 1) (Nat.succ_lt_succ hk)) hacc

/-- Settles O57, from the first working values. -/
theorem bounded32ReturnsTheFirstAcceptedDraw : Obligations.Bounded32ReturnsTheFirstAcceptedDraw :=
  fun _ n hs hb hd hf hne hrej hacc => run_bounded32 n hs hb hd hne (bounded32Work_fresh hf) hrej hacc

/-- Settles O58, from the first working values. -/
theorem bounded64ReturnsTheFirstAcceptedDraw : Obligations.Bounded64ReturnsTheFirstAcceptedDraw :=
  fun _ n hs hb hd hf hne hrej hacc => run_bounded64 n hs hb hd hne (bounded64Work_fresh hf) hrej hacc

/-! ### A seeded lane reaches every state (spec/40_datapath.md R112) -/

/-- Fewer than 2^64 steps of an odd increment lead from any state to any other, since no two of the first 2^64 states
are equal. -/
theorem lcgStep_reaches {c : Word} (hc : c.getLsbD 0 = true) (s v : Word) :
    ∃ k < 2 ^ 64, (fun x => lcgStep x c)^[k] s = v := by
  have hlt (i j : Nat) (hij : i < j) (hj : j < 2 ^ 64) :
      (fun x => lcgStep x c)^[i] s ≠ (fun x => lcgStep x c)^[j] s := by
    intro h
    rw [← Nat.sub_add_cancel hij.le, Function.iterate_add_apply, eq_comm, lcgStep_iterate_eq_self_iff hc] at h
    exact absurd (Nat.le_of_dvd (Nat.sub_pos_of_lt hij) h) (Nat.not_le.2 (by omega))
  have hinj : Function.Injective fun k : Fin (2 ^ 64) => (fun x => lcgStep x c)^[k.val] s := by
    intro i j h
    obtain hij | hij | hij := lt_trichotomy i.val j.val
    · exact absurd h (hlt _ _ hij j.isLt)
    · exact Fin.ext hij
    · exact absurd h.symm (hlt _ _ hij i.isLt)
  obtain ⟨k, hk⟩ := (Finite.injective_iff_surjective_of_equiv BitVec.equivFin.symm.toEquiv).1 hinj v
  exact ⟨k.val, k.isLt, hk⟩

/-- A seeded lane's draw is 0xFFFFFFFF within 2^64 draws: 0x07FFFE0000000000 is a state with that output. -/
theorem exists_drawAt_max {l : Lane} (hc : l.inc.getLsbD 0 = true) : ∃ k < 2 ^ 64, l.drawAt k = 0xFFFFFFFF#32 := by
  obtain ⟨k, hk, hs⟩ := lcgStep_reaches hc l.state 0x07FFFE0000000000#64
  refine ⟨k, hk, ?_⟩
  rw [Lane.drawAt, Lane.steps_state, hs]
  decide

/-- A threshold is below half the range. -/
theorem threshold64_lt {b : Word} (hb : b ≠ 0#64) : (threshold64 b).toNat < 2 ^ 63 := by
  rw [threshold64, toNat_neg_umod hb]
  have hdiv := Nat.div_add_mod (2 ^ 64) b.toNat
  have hmod := Nat.mod_lt (2 ^ 64) (toNat_pos_of_ne_zero hb)
  have hq : b.toNat * 1 ≤ b.toNat * (2 ^ 64 / b.toNat) :=
    Nat.mul_le_mul_left _ (Nat.div_pos b.isLt.le (toNat_pos_of_ne_zero hb))
  omega

/-- HI's greatest draw is at or above every threshold, whatever LO's is. -/
theorem threshold64_le_concat32 {b : Word} (hb : b ≠ 0#64) (l : Word32) :
    threshold64 b ≤ concat32 0xFFFFFFFF#32 l := by
  have hthr := threshold64_lt hb
  have hle : 0xFFFFFFFF * 2 ^ 32 ≤ (concat32 0xFFFFFFFF#32 l).toNat := by
    rw [concat32_eq_append, BitVec.toNat_append]
    exact Nat.left_le_or
  rw [BitVec.le_def]
  omega

/-- Of the numbers with a property the first. -/
theorem exists_first {p : Nat → Prop} [DecidablePred p] {k : Nat} (h : p k) : ∃ m ≤ k, p m ∧ ∀ j < m, ¬ p j :=
  ⟨Nat.find ⟨k, h⟩, Nat.find_min' _ h, Nat.find_spec ⟨k, h⟩, fun _ hj => Nat.find_min _ hj⟩

theorem bounded32_completes {s : State} (hinv : s.Inv) (hs : s.schedule = []) (hb : s.busy = true)
    (hd : decode s.lcmd = .ok .bounded32) (hseed : s.seeded32 = true) :
    ∃ n r g, n ≤ 2 ^ 64 ∧ Host.Core.run core n s = .next (completeWith r { s with g32 := g }) := by
  by_cases hz : s.bound32 = 0#32
  · exact ⟨1, 0#64, s.g32, by decide,
      run_succ_of_step 0 ((step_alone hs hb hd).trans (execBounded32_of_zero hz))⟩
  · obtain ⟨-, -, hw⟩ := hinv.flightOk hb hd
    obtain ⟨d, hfl, -⟩ := hw hz
    have hwork : s.bounded32Work = (threshold32 s.bound32, d, s.g32.steps d) := by rw [State.bounded32Work, hfl]
    obtain ⟨k, hk, hmax⟩ := exists_drawAt_max (l := s.g32.steps d) (by rw [Lane.steps_inc]; exact hinv.seeded32 hseed)
    have hacc : threshold32 s.bound32 ≤ (s.g32.steps d).drawAt k := 
      hmax ▸ BitVec.not_lt.1 BitVec.not_allOnes_lt
    obtain ⟨m, hm, hacc, hrej⟩ :=
      exists_first (p := fun j => threshold32 s.bound32 ≤ (s.g32.steps d).drawAt j) hacc
    exact ⟨m + 1, _, _, by omega,
      run_bounded32 m hs hb hd hz hwork (fun j hj => BitVec.not_le.1 (hrej j hj)) hacc⟩

theorem bounded64_completes {s : State} (hinv : s.Inv) (hs : s.schedule = []) (hb : s.busy = true)
    (hd : decode s.lcmd = .ok .bounded64) (hseed : s.seeded64 = true) :
    ∃ n r lo hi, n ≤ 2 ^ 64 ∧ Host.Core.run core n s = .next (completeWith r { s with lo := lo, hi := hi }) := by
  by_cases hz : s.bound64 = 0#64
  · exact ⟨1, 0#64, s.lo, s.hi, by decide,
      run_succ_of_step 0 ((step_alone hs hb hd).trans (execBounded64_of_zero hz))⟩
  · obtain ⟨-, hw⟩ := hinv.flightOk hb hd
    obtain ⟨d, hfl, -⟩ := hw hz
    have hwork : s.bounded64Work = (threshold64 s.bound64, d, s.lo.steps d, s.hi.steps d) := by
      rw [State.bounded64Work, hfl]
    obtain ⟨-, hodd, -⟩ := hinv.seeded64 hseed
    obtain ⟨k, hk, hmax⟩ := exists_drawAt_max (l := s.hi.steps d) (by rw [Lane.steps_inc]; exact hodd)
    have hacc : threshold64 s.bound64 ≤ draw64At (s.lo.steps d) (s.hi.steps d) k := by
      rw [draw64At, hmax]; exact threshold64_le_concat32 hz _
    obtain ⟨m, hm, hacc, hrej⟩ :=
      exists_first (p := fun j => threshold64 s.bound64 ≤ draw64At (s.lo.steps d) (s.hi.steps d) j) hacc
    exact ⟨m + 1, _, _, _, by omega,
      run_bounded64 m hs hb hd hz hwork (fun j hj => BitVec.not_le.1 (hrej j hj)) hacc⟩

/-- Settles O60: a draw of all ones is accepted, and the lane gives one within its period. -/
theorem seededBoundedCompletesWithinTwoTo64Draws : Obligations.SeededBoundedCompletesWithinTwoTo64Draws := by
  intro s hinv hs hb hcmd
  obtain ⟨hd, hseed⟩ | ⟨hd, hseed⟩ := hcmd
  · obtain ⟨n, r, g, hn, hrun⟩ := bounded32_completes hinv hs hb hd hseed
    exact ⟨n, _, hn, hrun, completeWith_busy _ _, completeWith_rv _ _⟩
  · obtain ⟨n, r, lo, hi, hn, hrun⟩ := bounded64_completes hinv hs hb hd hseed
    exact ⟨n, _, hn, hrun, completeWith_busy _ _, completeWith_rv _ _⟩

end Sys2Proof.Machine
end

section
/-! SUPPORT. The statements on single turns of the schedule: bus accesses, POLL, engine turns, reset, legal reads and
writes, and the bytes and words they carry. -/

namespace Sys2Proof.Machine

/-! ### Words and bytes -/

/-- Settles O1, by evaluation. -/
theorem sampleWordsDecodeAsTheTableSays : Obligations.SampleWordsDecodeAsTheTableSays := by
  unfold Obligations.SampleWordsDecodeAsTheTableSays
  decide

/-- The fields that R85 leaves are those of a command. -/
theorem decodeFields_isOk : ∀ (w : BitVec 1) (f : BitVec 4), f ≠ 0#4 → f.toNat < 7 →
    (decodeFields w f).isOk = true := by
  decide

theorem decode_of_legal_fields {w : Word} (hr : w.extractLsb' 5 59 = 0#59) (h0 : w.extractLsb' 0 4 ≠ 0#4)
    (h7 : (w.extractLsb' 0 4).toNat < 7) : (decode w).isOk = true := by
  have hdec : decode w = decodeFields (w.extractLsb' 4 1) (w.extractLsb' 0 4) := if_pos hr
  rw [hdec]
  exact decodeFields_isOk _ _ h0 h7

/-- Settles O3: a bad field is rejected, and with none the fields W and FUNC are in the table. -/
theorem wordIsIllegalExactlyOnBadFields : Obligations.WordIsIllegalExactlyOnBadFields := by
  refine fun w => ⟨fun ⟨e, he⟩ => ?_, decode_error_of_bad_field⟩
  by_contra hgood
  push Not at hgood
  obtain ⟨hr, h0, h7⟩ := hgood
  have hok := decode_of_legal_fields hr h0 h7
  rw [he] at hok
  cases hok

/-- Settles O4: each byte is a slice, and slices that meet are one slice. -/
theorem bytesOfARegisterAreLittleEndian : Obligations.BytesOfARegisterAreLittleEndian := by
  refine ⟨fun v k j hk hj => ?_, fun v => ?_⟩
  · rw [byteOfWord, BitVec.getLsbD_extractLsb', decide_eq_true hj, Bool.true_and]
  · unfold wordOfBytes byteOfWord
    iterate 7 rw [BitVec.extractLsb'_append_extractLsb'_eq_extractLsb' (by rfl)]
    exact BitVec.extractLsb'_eq_self

/-! ### Reset, the engine's turn, POLL, the bus -/

/-- Settles O5, by evaluation. -/
theorem resetLeavesEveryPieceAtItsTableValue : Obligations.ResetLeavesEveryPieceAtItsTableValue :=
  ⟨by decide, by decide, by decide, by decide, ⟨rfl, rfl⟩, by decide, rfl, step_nil rfl⟩

/-- Settles O6: the values are `resetBlock`'s. -/
theorem resetAbortsTheCommandInFlight : Obligations.ResetAbortsTheCommandInFlight := fun _ _ h => step_reset h

/-- Settles O10: the engine's turn comes with nothing scheduled or as a turn of its own. -/
theorem stepRunsTheCommandInFlight : Obligations.StepRunsTheCommandInFlight := by
  refine ⟨fun s i hb hd => ⟨fun h => step_alone h hb hd, fun rest h => ?_⟩,
    fun s hb => ⟨fun h => ?_, fun rest h => ?_⟩⟩
  · exact (step_engine h).trans (engineTurn_busy (s := { s with schedule := rest }) hb hd)
  · exact (step_nil h).trans (engineTurn_idle hb)
  · exact (step_engine h).trans (engineTurn_idle (s := { s with schedule := rest }) hb)

/-- Settles O11: the placed word is in flight and the engine's turn is next. -/
theorem placedCommandRunsNext : Obligations.PlacedCommandRunsNext := by
  intro s i n hn hd
  have hword : tableWord 64 n = BitVec.ofNat 64 n := by rw [tableWord, Nat.mod_eq_of_lt hn]
  rw [State.withFetchWord, hword]
  refine (step_engine (placeCommand_schedule _ s)).trans (engineTurn_busy ?_ hd)
  exact latchCommand_busy (BitVec.ofNat 64 n) s

/-- Settles O18, by the two ends of a round of POLL. -/
theorem pollRepeatsWhileBusy : Obligations.PollRepeatsWhileBusy := by
  intro s rest h
  rw [step_poll h]
  obtain ⟨hb, hx⟩ | ⟨hb, hx⟩ := pollRound_cases { s with schedule := rest }
  · exact ⟨fun _ => by rw [hx]; rfl, fun hb' => absurd (hb'.symm.trans hb) (by decide)⟩
  · exact ⟨fun hb' => absurd (hb'.symm.trans hb) (by decide), fun _ => by rw [hx]; rfl⟩

theorem busAccess_inside (off : Fin 256) (n : Nat) (d : Dir) (s : State) :
    busAccess (Config.pcgBase + off.val) n d s = hostAccess off n d s := by
  unfold busAccess
  rw [windowOffset_base]

theorem busAccess_outside {addr : Nat} (h : addr < Config.pcgBase ∨ Config.pcgBase + 256 ≤ addr) (n : Nat) (d : Dir)
    (s : State) : busAccess addr n d s = s := by
  unfold busAccess
  rw [windowOffset_none h]

/-- Settles O17, by the window's decoding of the address. -/
theorem busAccessesAreDecodedAtTheBase : Obligations.BusAccessesAreDecodedAtTheBase := by
  unfold Obligations.BusAccessesAreDecodedAtTheBase
  refine ⟨Nat.mod_eq_zero_of_dvd (Dvd.intro_left Config.pcgPage rfl), fun s off n d rest h => ?_,
    fun s addr n d rest hout h => ?_⟩
  · have hacc := step_access (s := { s with schedule := .access { off := off, size := n, dir := d } :: rest }) rfl
    rw [step_bus h, busAccess_inside, hacc]
  · rw [step_bus h, busAccess_outside hout]

/-! ### Legal writes -/

/-- Settles O14: each of the ten offsets holds a register that a write leaves alone. -/
theorem readOnlyRegistersIgnoreWrites : Obligations.ReadOnlyRegistersIgnoreWrites := by
  intro s off v rest hoff h
  rcases hoff with rfl | rfl | rfl | rfl | rfl | rfl | rfl | rfl | rfl | rfl <;> exact step_legal_write rfl h

/-- Settles O27, by the W1C write bit by bit. -/
theorem statusWriteClearsOnlyTheOneBits : Obligations.StatusWriteClearsOnlyTheOneBits := by
  refine fun s v rest h => ⟨w1cWrite s.status v, step_legal_write rfl h, fun j _ => ?_⟩
  rw [getLsbD_w1cWrite, Bool.and_comm (v.getLsbD j)]

/-! ### Legal reads -/

theorem eq_regOffset_of_regAt {off : Fin 256} {r : Reg} (h8 : off.val % 8 = 0) (h : regAt off = some r) :
    off = regOffset r := by
  have hdiv := regAt_some h
  have hr8 : (regOffset r).val % 8 = 0 := by cases r <;> rfl
  exact Fin.ext (by omega)

theorem le_of_regAt_none {off : Fin 256} (h : regAt off = none) : 0x80 ≤ off.val := by
  by_contra hlt
  have hk : off.val / 8 < 16 := by omega
  unfold regAt at h
  generalize off.val / 8 = k at h hk
  interval_cases k <;> cases h

/-- The window's values are the table's, register by register and 0 beyond the last. -/
theorem windowValue_eq_tableRegister {off : Fin 256} (h8 : off.val % 8 = 0) (s : State) :
    windowValue off s = tableRegister off.val s := by
  unfold windowValue
  cases hreg : regAt off with
  | none =>
    have := le_of_regAt_none hreg
    unfold tableRegister
    iterate 15 rw [if_neg (by omega)]
  | some r =>
    rw [eq_regOffset_of_regAt h8 hreg]
    cases r <;> rfl

theorem readUnspecified_eq_tableUnspecified {off : Fin 256} (h8 : off.val % 8 = 0) (s : State) :
    readUnspecified off s = (tableUnspecified off.val && s.busy) := by
  unfold readUnspecified
  cases hreg : regAt off with
  | none =>
    have := le_of_regAt_none hreg
    have htab : tableUnspecified off.val = false := by
      simp [tableUnspecified]
      omega
    rw [htab, Bool.false_and]
  | some r =>
    rw [eq_regOffset_of_regAt h8 hreg, Bool.and_comm]
    cases r <;> rfl

section
variable {s : State} {off : Fin 256} {rest : List Turn} (h8 : off.val % 8 = 0)
  (h : s.schedule = .access { off := off, size := 8, dir := .read } :: rest)
include h8 h

theorem step_read_unspecified (hu : (tableUnspecified off.val && s.busy) = true) :
    step s = .next { s with
      schedule := rest
      reads := { off := off, size := 8, value := Config.freeWord s.freeCount } :: s.reads
      freeCount := s.freeCount + 1 } := by
  rw [step_access h, hostAccess_legal_read h8, readLegal,
    if_pos ((readUnspecified_eq_tableUnspecified h8 { s with schedule := rest }).trans hu)]
  rfl

theorem step_read_value (hu : (tableUnspecified off.val && s.busy) = false) :
    step s = .next { s with
      schedule := rest, reads := { off := off, size := 8, value := tableRegister off.val s } :: s.reads } := by
  have hv : windowValue off { s with schedule := rest } = tableRegister off.val s := windowValue_eq_tableRegister h8 _
  rw [step_access h, hostAccess_legal_read h8, readLegal,
    if_neg (Bool.eq_false_iff.1 ((readUnspecified_eq_tableUnspecified h8 { s with schedule := rest }).trans hu)), hv]
  rfl

end

/-- Settles O12: the second read is a read of the state after the first, which holds the same registers. -/
theorem legalReadReturnsTheRegisterAndChangesNothing : Obligations.LegalReadReturnsTheRegisterAndChangesNothing := by
  refine fun s off rest h8 h => ⟨step_read_unspecified h8 h, fun hu => ⟨step_read_value h8 h hu, ?_⟩⟩
  rintro rest' rfl
  rw [run_succ_of_step 1 (step_read_value h8 h hu)]
  exact run_succ_of_step 0 (step_read_value (s := { s with schedule := _, reads := _ }) h8 rfl hu)

end Sys2Proof.Machine
end

section
/-! SUPPORT. The operand registers, the events and BUSY over any step, and acceptance whole (spec/10_state.md R34, R45;
spec/60_exceptions.md R168; spec/30_encoding.md R92). -/

namespace Sys2Proof.Machine

/-! ### Operand registers -/

theorem acceptCommand_operands (i : Instr) (w : Word) (s : State) :
    (acceptCommand i w s).op0 = s.op0 ∧ (acceptCommand i w s).op1 = s.op1 ∧ (acceptCommand i w s).op2 = s.op2 ∧
      (acceptCommand i w s).op3 = s.op3 := by
  obtain ⟨_, h⟩ | ⟨_, h⟩ := acceptCommand_cases i w s <;> simp [h]

theorem submitCommand_operands (w : Word) (s : State) :
    (submitCommand w s).op0 = s.op0 ∧ (submitCommand w s).op1 = s.op1 ∧ (submitCommand w s).op2 = s.op2 ∧
      (submitCommand w s).op3 = s.op3 := by
  obtain ⟨_, h⟩ | ⟨_, _, h⟩ | ⟨_, _, _, _, h⟩ | ⟨i, _, _, _, h⟩ := submitCommand_cases w s <;> rw [h]
  case inr.inr.inr => exact acceptCommand_operands i w s
  all_goals exact ⟨rfl, rfl, rfl, rfl⟩

/-- A legal write changes an operand register exactly at its offset. -/
theorem writeLegal_operands {off : Fin 256} (h8 : off.val % 8 = 0) (v : Word) (s : State) :
    (writeLegal off v s).op0 = (if off = 0x20 then v else s.op0) ∧
    (writeLegal off v s).op1 = (if off = 0x28 then v else s.op1) ∧
    (writeLegal off v s).op2 = (if off = 0x30 then v else s.op2) ∧
    (writeLegal off v s).op3 = (if off = 0x38 then v else s.op3) := by
  have hoff (k : Nat) (o : Fin 256) (ho : o.val = 8 * k) : off = o ↔ off.val / 8 = k := by
    rw [Fin.ext_iff]; omega
  simp only [hoff 4 0x20 rfl, hoff 5 0x28 rfl, hoff 6 0x30 rfl, hoff 7 0x38 rfl]
  obtain ⟨hk, hx⟩ | ⟨hk, hx⟩ | ⟨hk, hx⟩ | ⟨hk, hx⟩ | ⟨hk, hx⟩ | ⟨hk, hx⟩ | ⟨hk, hx⟩ := writeLegal_cases off v s <;>
    rw [hx]
  case inr.inl => simpa [hk] using submitCommand_operands v s
  case inr.inr.inr.inr.inr.inr =>
    rw [if_neg (by omega), if_neg (by omega), if_neg (by omega), if_neg (by omega)]
    exact ⟨rfl, rfl, rfl, rfl⟩
  all_goals simp [hk]

/-- Settles O15, by what the step does to the block. -/
theorem operandRegistersHoldTheLastWrite : Obligations.OperandRegistersHoldTheLastWrite := by
  intro s s' h
  obtain ⟨i, -, ha, hr, -, -, hx⟩ | ⟨-, ha, hr, rfl⟩ | ⟨off, -, ha, -, hr, ts, rs, fc, rfl⟩ |
    ⟨off, v, -, ha, h8, hr, rfl⟩ | ⟨a, -, ha, hn, hr, rs, rfl⟩ | ⟨-, ha, hr, rfl⟩ := step_effect h
  · obtain ⟨h0, h1, h2, h3, -⟩ := exec_keeps_registers hx
    simp only [hr, writeNow_of_no_access ha]
    exact ⟨h0, h1, h2, h3⟩
  · simp only [hr, writeNow_of_no_access ha]
    exact ⟨rfl, rfl, rfl, rfl⟩
  · simp only [hr, writeNow_of_read ha]
    exact ⟨rfl, rfl, rfl, rfl⟩
  · have hw (o : Fin 256) (ho : o.val % 8 = 0) (x : Word) :
        (if s.resetNow then 0#64 else (s.writeNow o).getD x) = if off = o then v else x := by
      rw [hr, writeNow_of_write ha]
      by_cases hoff : off = o <;> simp [hoff, ho]
    rw [hw 0x20 rfl, hw 0x28 rfl, hw 0x30 rfl, hw 0x38 rfl]
    exact writeLegal_operands h8 v s.popped
  · simp only [hr, writeNow_of_illegal ha hn]
    exact ⟨rfl, rfl, rfl, rfl⟩
  · simp only [hr]
    exact ⟨rfl, rfl, rfl, rfl⟩

/-! ### Events -/

theorem State.Shows.event_eq {s : State} {r : Bool} {i : Option Instr} {a : Option Word}
    {ev : Option (Event × Word)} {c : Option Word} (seen : s.Shows r i a ev c) {e : Event}
    (h : (s.eventNow e).isSome = true) : ∃ w, ev = some (e, w) := by
  rw [seen.event] at h
  obtain _ | ⟨f, w⟩ := ev
  · cases h
  · by_cases hf : e = f
    · exact ⟨w, by rw [hf]⟩
    · rw [recordedWord_some, if_neg hf] at h
      cases h

/-- A step raises at most one event, and only by a host access that is no engine step. -/
theorem eventNow_unique {s s' : State} {e f : Event} (h : step s = .next s') (he : (s.eventNow e).isSome = true)
    (hf : (s.eventNow f).isSome = true) : e = f ∧ s.engineNow = none := by
  have key {r : Bool} {i : Option Instr} {a : Option Word} {ev : Option (Event × Word)} {c : Option Word}
      (seen : s.Shows r i a ev c) (hi : ev = none ∨ i = none) : e = f ∧ s.engineNow = none := by
    obtain ⟨w, hw⟩ := seen.event_eq he
    obtain ⟨w', hw'⟩ := seen.event_eq hf
    rw [hw] at hw' hi
    cases hw'
    exact ⟨rfl, seen.engine.trans (hi.resolve_left nofun)⟩
  cases stepOutcome_of_step h with
  | ran i seen => exact key seen (.inl rfl)
  | reset seen => exact key seen (.inr rfl)
  | quiet seen => exact key seen (.inr rfl)
  | cleared _ seen => exact key seen (.inr rfl)
  | rejected _ _ seen => exact key seen (.inr rfl)
  | accepted _ _ _ _ seen => exact key seen (.inr rfl)

theorem accessNow_of_eventNow {s : State} {e : Event} (h : (s.eventNow e).isSome = true) :
    s.accessNow.isSome = true := by
  cases ha : s.accessNow with
  | some a => rfl
  | none =>
    obtain ⟨_, hw⟩ := (shows_of_no_access rfl rfl ha).event_eq h
    cases hw

/-- An event bit rises only by its event (10_state.md R38 to R42). -/
theorem eventNow_of_rising_bit {s s' : State} {e : Event} (h : step s = .next s') (h0 : s.eventBit e = false)
    (h1 : s'.eventBit e = true) : s.resetNow = false ∧ (s.eventNow e).isSome = true := by
  rw [eventBitsChangeOnlyByEventClearAndReset s s' h e, h0, Bool.false_and, Bool.or_false] at h1
  simpa using h1

/-- Settles O26: a bit that rises has its event, and a step has one event. -/
theorem atMostOneEventAStep : Obligations.AtMostOneEventAStep := by
  intro s s' e f h he0 he1 hf0 hf1
  obtain ⟨hr, he⟩ := eventNow_of_rising_bit h he0 he1
  obtain ⟨-, hf⟩ := eventNow_of_rising_bit h hf0 hf1
  obtain ⟨hef, hi⟩ := eventNow_unique h he hf
  exact ⟨hef, accessNow_of_eventNow he, hi, hr⟩

/-! ### BUSY -/

theorem acceptCommand_busy (i : Instr) (w : Word) (s : State) : (acceptCommand i w s).busy = true := by
  obtain ⟨_, h⟩ | ⟨_, h⟩ := acceptCommand_cases i w s <;> simp [h]

/-- Every command but a BOUNDED completes in its one engine step. -/
theorem exec_completes {i : Instr} {s t : State} (h : exec i s = .next t) (h32 : i ≠ .bounded32)
    (h64 : i ≠ .bounded64) : t.busy = false := by
  cases i
  case bounded32 | bounded64 => contradiction
  case random32 | random64 => cases h; exact completeWith_busy _ _
  all_goals cases h; exact complete_busy _

theorem execBounded32_busy {s t : State} (hb : s.busy = true) (h : exec .bounded32 s = .next t) :
    t.busy = false ↔ (s.bound32 = 0#32 ∨ s.bounded32Work.1 ≤ xshRr32 s.bounded32Work.2.2.state) := by
  obtain ⟨hz, rfl⟩ | ⟨_, hacc, rfl⟩ | ⟨hne, hrej, _, rfl⟩ := execBounded32_cases h
  · exact iff_of_true (completeWith_busy _ _) (.inl hz)
  · exact iff_of_true (completeWith_busy _ _) (.inr hacc)
  · exact iff_of_false (fun hf => absurd (hb.symm.trans hf) (by decide)) (not_or.2 ⟨hne, hrej⟩)

theorem execBounded64_busy {s t : State} (hb : s.busy = true) (h : exec .bounded64 s = .next t) :
    t.busy = false ↔
      (s.bound64 = 0#64 ∨ s.bounded64Work.1 ≤ (draw64 s.bounded64Work.2.2.1 s.bounded64Work.2.2.2).1) := by
  obtain ⟨hz, rfl⟩ | ⟨_, hacc, rfl⟩ | ⟨hne, hrej, _, rfl⟩ := execBounded64_cases h
  · exact iff_of_true (completeWith_busy _ _) (.inl hz)
  · exact iff_of_true (completeWith_busy _ _) (.inr hacc)
  · exact iff_of_false (fun hf => absurd (hb.symm.trans hf) (by decide)) (not_or.2 ⟨hne, hrej⟩)

/-- Settles O30, by the outcomes of a step; the engine's, by the command. -/
theorem busyRisesAtAcceptanceAndFallsAtCompletion : Obligations.BusyRisesAtAcceptanceAndFallsAtCompletion := by
  intro s s' h
  cases stepOutcome_of_step h with
  | ran i seen hb _ hx =>
    rw [seen.reset, seen.accept, seen.engine]
    refine ⟨nofun, nofun, ?_, ?_, ?_, nofun⟩
    · rintro j ⟨⟩ h32 h64; exact exec_completes hx h32 h64
    · rintro ⟨⟩; exact execBounded32_busy (s := s.popped) hb hx
    · rintro ⟨⟩; exact execBounded64_busy (s := s.popped) hb hx
  | reset seen hx =>
    rw [seen.reset, seen.accept, seen.engine, hx]
    exact ⟨fun _ => resetBlock_busy _, nofun, nofun, nofun, nofun, nofun⟩
  | quiet seen hx =>
    obtain ⟨_, _, _, _, _, _, _, rfl⟩ := hx
    rw [seen.reset, seen.accept, seen.engine]
    exact ⟨nofun, nofun, nofun, nofun, nofun, fun _ _ _ => rfl⟩
  | cleared v seen hx =>
    rw [seen.reset, seen.accept, seen.engine, hx]
    exact ⟨nofun, nofun, nofun, nofun, nofun, fun _ _ _ => clearEvents_busy v s.popped⟩
  | rejected e w seen hx =>
    obtain ⟨_, rfl⟩ := hx
    rw [seen.reset, seen.accept, seen.engine]
    exact ⟨nofun, nofun, nofun, nofun, nofun, fun _ _ _ => raiseEvent_busy e w _⟩
  | accepted i w _ _ seen hx =>
    rw [seen.reset, seen.accept, seen.engine, hx]
    exact ⟨nofun, fun _ => acceptCommand_busy i w _, nofun, nofun, nofun, nofun⟩

/-! ### Acceptance -/

theorem submitCommand_accepted {i : Instr} {w : Word} {s : State} (hb : s.busy = false) (hd : decode w = .ok i)
    (ho : operandTooWide i s = false) : submitCommand w s = acceptCommand i w s := by
  simp [submitCommand, hb, hd, ho]

/-- The command in flight right after its acceptance. -/
theorem latchCommand_eq {i : Instr} {w : Word} (s : State) (hd : decode w = .ok i) :
    latchCommand w s = { s with
      lcmd := w, l0 := s.op0, l1 := s.op1, l2 := s.op2, l3 := s.op3
      inFlight := startFlight i { s with l0 := s.op0 }
      status := (s.status &&& ~~~0x2#64) ||| 0x1#64 } := by
  rw [← latchCommand_inFlight s hd]
  rfl

theorem acceptCommand_eq {i : Instr} {w : Word} (s : State) (hd : decode w = .ok i) :
    acceptCommand i w s = { s with
      lcmd := w, l0 := s.op0, l1 := s.op1, l2 := s.op2, l3 := s.op3
      inFlight := startFlight i { s with l0 := s.op0 }
      status := if usesUnseeded i s then ((s.status &&& ~~~0x2#64) ||| 0x1001#64)
        else ((s.status &&& ~~~0x2#64) ||| 0x1#64)
      errinfo := if usesUnseeded i s then w else s.errinfo } := by
  obtain ⟨hu, h⟩ | ⟨hu, h⟩ := acceptCommand_cases i w s
  · have hst : ((s.status &&& ~~~0x2#64) ||| 0x1#64) ||| 0x1000#64 = (s.status &&& ~~~0x2#64) ||| 0x1001#64 :=
      BitVec.or_assoc ..
    rw [h, latchCommand_eq s hd, hu, if_pos rfl, if_pos rfl, ← hst]
    rfl
  · rw [h, latchCommand_eq s hd, hu]
    rfl

theorem operandTooWide_eq_false {i : Instr} {s : State} (h : i = .bounded32 → s.op0.extractLsb' 32 32 = 0#32) :
    operandTooWide i s = false := by
  cases i
  case bounded32 => exact bne_eq_false_iff_eq.2 (h rfl)
  all_goals rfl

/-- Settles O22: no check rejects the word. -/
theorem acceptedCommandIsLatchedAndInFlight : Obligations.AcceptedCommandIsLatchedAndInFlight := by
  intro s i rest h hb hw
  rw [← encode_eq_tableCommandWord] at h ⊢
  have hd := decode_encode i
  have ho : operandTooWide i { s with schedule := rest } = false := operandTooWide_eq_false hw
  have hu : usesUnseeded i { s with schedule := rest } = usesUnseeded i s := by cases i <;> rfl
  have hf : startFlight i { s with schedule := rest, l0 := s.op0 } = startFlight i { s with l0 := s.op0 } := by
    cases i <;> rfl
  rw [unseededUse_of_ok s hd]
  calc step s
    _ = .next (acceptCommand i (encode i) { s with schedule := rest }) :=
      (step_legal_write rfl h).trans (congrArg _ (submitCommand_accepted hb hd ho))
    _ = _ := by rw [acceptCommand_eq _ hd, hu, ← hf]

end Sys2Proof.Machine
end

section
/-! SUPPORT. Whole commands, each a CMD write and an engine turn: RETREAT32 after ADVANCE32 (spec/41_pcg32.md R128), and
the halves of 64-bit draws (spec/42_pcg64.md R146). -/

namespace Sys2Proof.Machine

/-! ### The state in which an accepted command runs -/

theorem acceptCommand_lanes (i : Instr) (w : Word) (s : State) :
    (acceptCommand i w s).g32 = s.g32 ∧ (acceptCommand i w s).lo = s.lo ∧ (acceptCommand i w s).hi = s.hi := by
  obtain ⟨_, h⟩ | ⟨_, h⟩ := acceptCommand_cases i w s <;> simp [h]

theorem acceptCommand_schedule (i : Instr) (w : Word) (s : State) : (acceptCommand i w s).schedule = s.schedule := by
  obtain ⟨_, h⟩ | ⟨_, h⟩ := acceptCommand_cases i w s <;> simp [h]

/-- An accepted command has taken no engine step. -/
theorem acceptCommand_fresh (i : Instr) (s : State) : (acceptCommand i (encode i) s).fresh i := by
  rw [acceptCommand_eq s (decode_encode i)]
  refine .inr ?_
  cases i <;> rfl

/-- A command's two turns, at the head of the schedule of an idle block, give what `exec` gives after acceptance. -/
theorem run_command {s t : State} {i : Instr} {rest : List Turn} (k : Nat) (hs : s.schedule = commandTurns i ++ rest)
    (hb : s.busy = false) (hi : i ≠ .bounded32)
    (hx : exec i (acceptCommand i (encode i) { s with schedule := rest }) = .next t) :
    Host.Core.run core (k + 2) s = Host.Core.run core k t ∧ t.schedule = rest := by
  obtain ⟨-, -, -, -, -, -, -, -, -, -, hsch, -⟩ := exec_keeps_registers hx
  exact ⟨run_commandTurns k (decode_encode i) hs hb (operandTooWide_eq_false fun h => absurd h hi) hx,
    hsch.trans (acceptCommand_schedule i _ _)⟩

/-! ### RETREAT32 after ADVANCE32 -/

theorem Lane.jumped_neg_jumped {l : Lane} (h : l.inc.getLsbD 0 = true ∨ l = Lane.zero) (d : Word) :
    (l.jumped d).jumped (-d) = l := by
  refine Lane.ext (jump_neg_jump (h.imp_right ?_) d) rfl
  rintro rfl
  exact ⟨rfl, rfl⟩

theorem State.Inv.lane32 {s : State} (h : s.Inv) : s.g32.inc.getLsbD 0 = true ∨ s.g32 = Lane.zero := by
  cases hs : s.seeded32
  · exact .inr (h.unseeded32 hs)
  · exact .inl (h.seeded32 hs)

theorem run_advance32 {s : State} {rest : List Turn} (k : Nat) (hs : s.schedule = commandTurns .advance32 ++ rest)
    (hb : s.busy = false) :
    ∃ t, Host.Core.run core (k + 2) s = Host.Core.run core k t ∧ t.schedule = rest ∧ t.busy = false ∧
      t.op0 = s.op0 ∧ t.g32 = s.g32.jumped s.op0 := by
  have hx := execAdvance32_fresh (acceptCommand_fresh .advance32 { s with schedule := rest })
  obtain ⟨hrun, hsch⟩ := run_command k hs hb (by decide) hx
  refine ⟨_, hrun, hsch, complete_busy _, (acceptCommand_operands .advance32 _ { s with schedule := rest }).1, ?_⟩
  rw [complete_g32, (acceptCommand_lanes _ _ _).1, (acceptCommand_latches _ _ _).2.1]

theorem run_retreat32 {s : State} {rest : List Turn} (k : Nat) (hs : s.schedule = commandTurns .retreat32 ++ rest)
    (hb : s.busy = false) :
    ∃ t, Host.Core.run core (k + 2) s = Host.Core.run core k t ∧ t.schedule = rest ∧ t.busy = false ∧
      t.op0 = s.op0 ∧ t.g32 = s.g32.jumped (-s.op0) := by
  have hx := execRetreat32_fresh (acceptCommand_fresh .retreat32 { s with schedule := rest })
  obtain ⟨hrun, hsch⟩ := run_command k hs hb (by decide) hx
  refine ⟨_, hrun, hsch, complete_busy _, (acceptCommand_operands .retreat32 _ { s with schedule := rest }).1, ?_⟩
  rw [complete_g32, (acceptCommand_lanes _ _ _).1, (acceptCommand_latches _ _ _).2.1]

/-- Settles O54: OP0 is the same at both acceptances, and the jump back undoes the jump. -/
theorem retreat32InvertsAdvance32 : Obligations.Retreat32InvertsAdvance32 := by
  intro s hinv hb
  obtain ⟨t, hrun, hsch, hbt, hop, hg⟩ := run_advance32
    (s := { s with schedule := commandTurns .advance32 ++ commandTurns .retreat32 }) 2 rfl hb
  obtain ⟨u, hrun', -, hbu, hop', hg'⟩ := run_retreat32 (rest := []) 0 (hsch.trans (List.append_nil _).symm) hbt
  refine ⟨u, hrun.trans hrun', ?_, hop'.trans hop, hbu⟩
  rw [hg', hg, hop]
  exact Lane.jumped_neg_jumped hinv.lane32 s.op0

/-! ### A command repeated -/

/-- What each run of a command takes from its m-th value to the next, n runs take on by n. -/
theorem run_repeated {i : Instr} (hi : i ≠ .bounded32) {P : Nat → State → Prop}
    (hP : ∀ m s ts, P m s → P m { s with schedule := ts })
    (hrun : ∀ m s, P m s → ∃ t, exec i (acceptCommand i (encode i) s) = .next t ∧ t.busy = false ∧ P (m + 1) t)
    (n m : Nat) (s : State) (hb : s.busy = false) (hs : s.schedule = (List.replicate n (commandTurns i)).flatten)
    (hm : P m s) : ∃ u, Host.Core.run core (2 * n) s = .next u ∧ P (m + n) u := by
  induction n generalizing m s with
  | zero => exact ⟨s, rfl, hm⟩
  | succ n ih =>
    obtain ⟨t, hx, hbt, hmt⟩ := hrun m _ (hP m s (List.replicate n (commandTurns i)).flatten hm)
    obtain ⟨hrun', hsch⟩ := run_command (2 * n) hs hb hi hx
    obtain ⟨u, hu, hmu⟩ := ih (m + 1) t hbt hsch hmt
    exact ⟨u, hrun'.trans hu, by rwa [Nat.add_right_comm] at hmu⟩

/-- G32 is m steps after `l`, and RES holds the last of the m draws. -/
def Drawn32 (l : Lane) (m : Nat) (s : State) : Prop :=
  s.g32 = l.steps m ∧ ∀ k, m = k + 1 → s.res = zext64 (l.drawAt k)

/-- LO and HI are m steps after `lo` and `hi`, and RES holds the last of the m draws. -/
def Drawn64 (lo hi : Lane) (m : Nat) (s : State) : Prop :=
  s.lo = lo.steps m ∧ s.hi = hi.steps m ∧ ∀ k, m = k + 1 → s.res = draw64At lo hi k

theorem random32_drawn {l : Lane} {m : Nat} {s : State} (h : Drawn32 l m s) :
    ∃ t, exec .random32 (acceptCommand .random32 (encode .random32) s) = .next t ∧ t.busy = false ∧
      Drawn32 l (m + 1) t := by
  obtain ⟨hg, -⟩ := h
  refine ⟨_, rfl, completeWith_busy _ _, ?_, ?_⟩
  · rw [completeWith_g32, (acceptCommand_lanes _ _ _).1, hg, draw32_steps]
  · rintro k ⟨⟩
    rw [completeWith_res, (acceptCommand_lanes _ _ _).1, hg, draw32_steps]

theorem random64_drawn {lo hi : Lane} {m : Nat} {s : State} (h : Drawn64 lo hi m s) :
    ∃ t, exec .random64 (acceptCommand .random64 (encode .random64) s) = .next t ∧ t.busy = false ∧
      Drawn64 lo hi (m + 1) t := by
  obtain ⟨hlo, hhi, -⟩ := h
  obtain ⟨-, ha, hb⟩ := acceptCommand_lanes .random64 (encode .random64) s
  refine ⟨_, rfl, completeWith_busy _ _, ?_, ?_, ?_⟩
  · rw [completeWith_lo, ha, hb, hlo, hhi, draw64_steps]
  · rw [completeWith_hi, ha, hb, hlo, hhi, draw64_steps]
  · rintro k ⟨⟩
    rw [completeWith_res, ha, hb, hlo, hhi, draw64_steps]

/-- RES after SEED32 and n + 1 RANDOM32 (41_pcg32.md R122, R123). -/
theorem run_seed32_random32 (l : Lane) {p : State} (n : Nat) (hb : p.busy = false) :
    ∃ v, Host.Core.run core (2 * (n + 2)) { p with
        schedule := commandTurns .seed32 ++ (List.replicate (n + 1) (commandTurns .random32)).flatten } = .next v ∧
      v.res = zext64 ((seedLane l p.op0 p.op1).drawAt n) := by
  obtain ⟨hrun, hsch⟩ := run_command (i := .seed32) (2 * (n + 1)) (s := { p with schedule := _ }) rfl hb (by decide) rfl
  have hlatch := acceptCommand_latches .seed32 (encode .seed32)
    { p with schedule := (List.replicate (n + 1) (commandTurns .random32)).flatten }
  obtain ⟨v, hv, -, hres⟩ := run_repeated (by decide) (P := Drawn32 (seedLane l p.op0 p.op1)) (fun _ _ _ h => h)
    (fun _ _ => random32_drawn) (n + 1) 0 _ (complete_busy _) hsch
    ⟨by rw [complete_g32, hlatch.2.1, hlatch.2.2.1]; rfl, nofun⟩
  exact ⟨v, hrun.trans hv, hres n (Nat.zero_add _)⟩

/-- RES after SEED64 and n + 1 RANDOM64 (42_pcg64.md R141, R142). -/
theorem run_seed64_random64 (l : Lane) {s : State} (n : Nat) (hb : s.busy = false) :
    ∃ u, Host.Core.run core (2 * (n + 2)) { s with
        schedule := commandTurns .seed64 ++ (List.replicate (n + 1) (commandTurns .random64)).flatten } = .next u ∧
      u.res = draw64At (seedLane l s.op0 s.op2) (seedLane l s.op1 (distinctSeq2 s.op2 s.op3)) n := by
  obtain ⟨hrun, hsch⟩ := run_command (i := .seed64) (2 * (n + 1)) (s := { s with schedule := _ }) rfl hb (by decide) rfl
  obtain ⟨-, hl0, hl1, hl2, hl3⟩ := acceptCommand_latches .seed64 (encode .seed64)
    { s with schedule := (List.replicate (n + 1) (commandTurns .random64)).flatten }
  obtain ⟨u, hu, -, -, hres⟩ := run_repeated (by decide)
    (P := Drawn64 (seedLane l s.op0 s.op2) (seedLane l s.op1 (distinctSeq2 s.op2 s.op3))) (fun _ _ _ h => h)
    (fun _ _ => random64_drawn) (n + 1) 0 _ (complete_busy _) hsch
    ⟨by rw [complete_lo, hl0, hl2]; rfl, by rw [complete_hi, hl1, hl2, hl3]; rfl, nofun⟩
  exact ⟨u, hrun.trans hu, hres n (Nat.zero_add _)⟩

/-- Settles O55: the seeds and so the lanes are equal, and a 64-bit draw is the two lanes' draws side by side. -/
theorem halvesOf64BitDrawsAre32BitDraws : Obligations.HalvesOf64BitDrawsAre32BitDraws := by
  intro s p q n hs hp hq hp0 hp1 hq0 hq1
  obtain ⟨u, hu, hures⟩ := run_seed64_random64 Lane.zero n hs
  obtain ⟨v, hv, hvres⟩ := run_seed32_random32 Lane.zero n hp
  obtain ⟨w, hw, hwres⟩ := run_seed32_random32 Lane.zero n hq
  refine ⟨u, v, w, hu, hv, hw, ?_⟩
  rw [hures, hvres, hwres, hp0, hp1, hq0, hq1, draw64At, concat32_eq_append, zext64_eq_append, zext64_eq_append,
    BitVec.extractLsb'_append_eq_right, BitVec.extractLsb'_append_eq_left, BitVec.extractLsb'_append_eq_right,
    BitVec.extractLsb'_append_eq_right]
  exact ⟨rfl, rfl⟩

end Sys2Proof.Machine
end
